-- ==== Sys2Proof/Word.lean ====
section
/-! DEFINITION. The bit widths of baymakac-irser: registers and bus data, frame bytes, durations, byte offsets. -/

namespace Sys2Proof

/-- A register, bus datum or command word: 32 bits (R6 REG_WIDTH, R21). -/
abbrev Word := BitVec 32

/-- A byte of a frame word (R7). -/
abbrev Byte := BitVec 8

/-- A mark or space duration in microseconds: unsigned 16 bits (R6 DUR_WIDTH, R28). -/
abbrev Duration := BitVec 16

/-- A byte offset into the register space: 12 bits (R6 ADDR_WIDTH, R60). -/
abbrev Offset := BitVec 12

end Sys2Proof
end

