-- ==== Sys2Proof/Config.lean ====
section
/-! DEFINITION. The implementation parameters of 00_scope.md R6: those the spec fixes are constants, those it marks OPEN are fields of `HostParams`. -/

namespace Sys2Proof

namespace Config

/-- `WORD_BUF_WORDS`: words in the WORD buffer (R6). -/
abbrev wordBufWords : Nat := 4

/-- `MAX_BITS`: the serializer's bit-count cap (R6, R152). -/
abbrev maxBits : Nat := 128

/-- `PULSE_CAP`: capacity of the PULSE buffer in 16-bit entries (R6). -/
abbrev pulseCap : Nat := 258

/-- The bytes of the register window: the whole of a 12-bit offset space (R6 `ADDR_WIDTH`, R60). -/
abbrev windowBytes : Nat := 4096

/-- R6 derives the cap from the WORD buffer and the PULSE capacity from the cap. -/
theorem sizes_agree : maxBits = 32 * wordBufWords ∧ pulseCap = 2 + 2 * maxBits := ⟨rfl, rfl⟩

end Config

/-- `HEADER_VARIANT` (R6) and the operand HV of LOAD_PRESET (R83). -/
inductive HeaderVariant where
  /-- 8950/4450 µs -/
  | h8950
  /-- 9000/4500 µs -/
  | h9000
  deriving DecidableEq, Repr

/-- `FRAME_BITS` (R6) and the operand FB of LOAD_PRESET (R83). -/
inductive FrameBits where
  | bits104
  | bits105
  deriving DecidableEq, Repr

/-- `VSWEEP_CODE` (R6): the vane code the host uses for a vertical sweep (R206). -/
inductive VSweepCode where
  | zero
  | six
  deriving DecidableEq, Repr

/-- `BUS_ERROR_RESPONSE` (R6): how the platform presents a BusError to the host program (R233). -/
inductive BusErrorResponse where
  /-- The access ends the host's step with a fault, as R233's last sentence has a model do. -/
  | abort
  /-- The host is told and issues its next access, which is handled as usual (R236). -/
  | report
  deriving DecidableEq, Repr

/-- What R6 and R211 leave to the host and its platform. A statement for every state holds for every choice. -/
structure HostParams where
  headerVariant : HeaderVariant
  frameBits : FrameBits
  vsweepCode : VSweepCode
  /-- `RETX_COUNT` and `RETX_DELAY` (R209): `none` is a count of 0, `some d` a count of 1 after the delay `d`. -/
  retransmit : Option Nat
  busErrorResponse : BusErrorResponse
  /-- `BASE`: where the register window begins in the host's address space (R60). -/
  base : Nat
  /-- `BUS_ORDERED`: the platform's bus delivers host accesses in issue order (R71). -/
  busOrdered : Bool
  /-- `RESET_SOURCE`: the platform events that assert the block's reset besides power-up (R260), by the platform's numbers
  for them, which the spec does not give (log entry 15). -/
  resetSources : List Nat
  /-- Whether a sink is attached, which the host must know (R211). -/
  sinkAttached : Bool
  deriving DecidableEq, Repr

/-- The parameters a run from reset starts with.
VSWEEP_CODE is the spec's default and BUS_ORDERED what the block assumes (R6); the others are DESIGN CHOICE (log entries 3,
4, 9 and 15). -/
def HostParams.initial : HostParams where
  headerVariant := .h8950
  frameBits := .bits104
  vsweepCode := .zero
  retransmit := none
  busErrorResponse := .abort
  base := 0
  busOrdered := true
  resetSources := []
  sinkAttached := true

end Sys2Proof
end

