-- ==== Sys2Proof/Syntax.lean ====
section
/-! DEFINITION. The commands of the block, one constructor per row of spec/opcode_table.json. -/

namespace Sys2Proof

/-- The commands (R84). Operands of ENCODE, SERIALIZE and TRANSMIT are held in registers, not in the command word. -/
inductive Instr where
  /-- NOP, OP 0x00, format Z (R180). -/
  | nop
  /-- ENCODE, OP 0x01, format Z (R100). -/
  | encode
  /-- SERIALIZE, OP 0x02, format Z (R150). -/
  | serialize
  /-- TRANSMIT, OP 0x03, format Z (R165). -/
  | transmit
  /-- LOAD_PRESET, OP 0x04, format P (R182). -/
  | loadPreset (hv : HeaderVariant) (fb : FrameBits)
  deriving DecidableEq, Repr

end Sys2Proof
end

