-- ==== Sys2Proof/WellFormed.lean ====
section
/-! DEFINITION. What is well-formed: the eight legal command words of R84's table, and commands as terms. -/

namespace Sys2Proof

/-- The legal words of R84's table, in its order. -/
def legalWords : List Word :=
  [0x00000000, 0x00000001, 0x00000002, 0x00000003,
   0x00000004, 0x00000104, 0x00000204, 0x00000304]

/-- A command word is well-formed when it is one of the eight (R85, R86).
Stated from the table of legal words, not from the decoder. -/
def wordWf (v : Word) : Bool := legalWords.contains v

/-- A command as a term: HV and FB are one-bit operands (R83), which their types say already, so no term is refused. -/
def Instr.wf : Instr → Bool
  | .nop => true
  | .encode => true
  | .serialize => true
  | .transmit => true
  | .loadPreset _ _ => true

end Sys2Proof
end

