-- ==== Sys2Proof/Decode.lean ====
section
/-! DEFINITION. The decoder of R85, total on all command words, and the encoder of R81 and R82. -/

namespace Sys2Proof

/-- The three groups of illegal words (R86). -/
inductive IllegalGroup where
  /-- OP in 0x05-0xFF. -/
  | reservedOp
  /-- OP in 0x00-0x03 and a bit of [31:8] set. -/
  | operandBitsInZ
  /-- OP = 0x04 and a bit of [31:10] set. -/
  | reservedBitsInP
  deriving DecidableEq, Repr

/-- What the decoder answers: a command, or ILLEGAL with the group of R86 the word falls into. -/
inductive Decoded where
  | instr (i : Instr)
  | illegal (g : IllegalGroup)
  deriving DecidableEq, Repr

/-- OP, bits [7:0] (R80). -/
def opField (v : Word) : Byte := v.extractLsb' 0 8

/-- HV, bit [8] (R80): 0 selects H8950, 1 selects H9000 (R83). -/
def hvField (v : Word) : HeaderVariant := if v.getLsbD 8 then .h9000 else .h8950

/-- FB, bit [9] (R80): 0 selects 104, 1 selects 105 (R83). -/
def fbField (v : Word) : FrameBits := if v.getLsbD 9 then .bits105 else .bits104

/-- The commands of format Z by opcode (R84). -/
def zCommand (op : Byte) : Option Instr :=
  if op = 0x00 then some .nop
  else if op = 0x01 then some .encode
  else if op = 0x02 then some .serialize
  else if op = 0x03 then some .transmit
  else none

/-- The decoder (R85). -/
def decode (v : Word) : Decoded :=
  match zCommand (opField v) with
  | some i => if v.extractLsb' 8 24 = 0 then .instr i else .illegal .operandBitsInZ
  | none =>
    if opField v = 0x04 then
      if v.extractLsb' 10 22 = 0 then .instr (.loadPreset (hvField v) (fbField v))
      else .illegal .reservedBitsInP
    else .illegal .reservedOp

/-- The command a decoded word stands for, if it is legal. -/
def Decoded.toInstr : Decoded → Option Instr
  | .instr i => some i
  | .illegal _ => none

/-- The decoder on a word of the opcode table, whose bits at and above `nbits` are 0. -/
def decodeTableWord (nbits w : Nat) : Option Instr :=
  (decode (BitVec.ofNat 32 (w % 2 ^ nbits))).toInstr

/-- The HV bit of an encoded LOAD_PRESET (R83). -/
def HeaderVariant.bit : HeaderVariant → Word
  | .h8950 => 0
  | .h9000 => 1

/-- The FB bit of an encoded LOAD_PRESET (R83). -/
def FrameBits.bit : FrameBits → Word
  | .bits104 => 0
  | .bits105 => 1

/-- The encoder: format Z is the opcode alone (R81), LOAD_PRESET is `0x00000004 | (hv << 8) | (fb << 9)` (R182). -/
def encode : Instr → Word
  | .nop => 0x00000000
  | .encode => 0x00000001
  | .serialize => 0x00000002
  | .transmit => 0x00000003
  | .loadPreset hv fb => 0x00000004 ||| (hv.bit <<< 8) ||| (fb.bit <<< 9)

/-- One row of spec/opcode_table.json: a word belongs to it when its masked bits are `pattern`. -/
structure OpcodeRow where
  mnemonic : String
  mask : Word
  pattern : Word
  deriving DecidableEq, Repr

/-- A word belongs to a row. -/
def OpcodeRow.admits (r : OpcodeRow) (v : Word) : Bool := v &&& r.mask == r.pattern

/-- spec/opcode_table.json, row by row. -/
def opcodeTable : List OpcodeRow :=
  [⟨"NOP", 0xFFFFFFFF, 0x00000000⟩,
   ⟨"ENCODE", 0xFFFFFFFF, 0x00000001⟩,
   ⟨"SERIALIZE", 0xFFFFFFFF, 0x00000002⟩,
   ⟨"TRANSMIT", 0xFFFFFFFF, 0x00000003⟩,
   ⟨"LOAD_PRESET", 0xFFFFFCFF, 0x00000004⟩]

/-- The table's mnemonic of a command. -/
def Instr.mnemonic : Instr → String
  | .nop => "NOP"
  | .encode => "ENCODE"
  | .serialize => "SERIALIZE"
  | .transmit => "TRANSMIT"
  | .loadPreset _ _ => "LOAD_PRESET"

end Sys2Proof
end

