-- ==== Sys2Proof/Machine/Climate.lean ====
section
/-! DEFINITION. The climate terms of the source: what a request asks for, and the host's two records of it (R201, R202). -/

namespace Sys2Proof.Machine

/-- Air-conditioner mode (R24 MODE). -/
inductive Mode where
  | cool
  | heat
  | dry
  | fanOnly
  | auto
  deriving DecidableEq, Repr

/-- Fan speed (R24 FAN). -/
inductive Fan where
  | auto
  | low
  | medium
  | high
  deriving DecidableEq, Repr

/-- The source's swing enumeration (R206). -/
inductive Swing where
  | off
  | vertical
  | horizontal
  | both
  deriving DecidableEq, Repr

/-- A value of one of the enumerations as the host meets it: one it can map, or one it cannot (R206, R207). -/
inductive Setting (α : Type) where
  | known (a : α)
  | unmapped
  deriving DecidableEq, Repr

/-- The source's temperature: a number of degrees Celsius, or "NaN/undefined" (R25, R207).
A rational stands for the real number (log entry 5). -/
inductive Temperature where
  | celsius (t : Rat)
  | undefined
  deriving DecidableEq, Repr

/-- S, the persistent climate state of the host (R201). -/
structure Climate where
  powerOn : Bool
  mode : Setting Mode
  temperature : Temperature
  fan : Setting Fan
  swing : Setting Swing
  health : Bool
  sleep : Bool
  timerOn : Bool
  deriving DecidableEq, Repr

/-- LKG, the last-known-good snapshot of the host (R201). -/
structure Snapshot where
  mode : Setting Mode
  temperature : Temperature
  fan : Setting Fan
  swing : Setting Swing
  deriving DecidableEq, Repr

/-- A sparse control request: only the fields present change S (R202). -/
structure ControlRequest where
  powerOn : Option Bool := none
  mode : Option (Setting Mode) := none
  temperature : Option Temperature := none
  fan : Option (Setting Fan) := none
  swing : Option (Setting Swing) := none
  health : Option Bool := none
  sleep : Option Bool := none
  timerOn : Option Bool := none
  deriving DecidableEq, Repr

/-- S before the first request (R204). -/
def Climate.initial : Climate where
  powerOn := false
  mode := .known .cool
  temperature := .celsius 24
  fan := .known .auto
  swing := .known .off
  health := false
  sleep := false
  timerOn := false

/-- LKG before the first request (R204). -/
def Snapshot.initial : Snapshot where
  mode := .known .cool
  temperature := .celsius 24
  fan := .known .auto
  swing := .known .off

end Sys2Proof.Machine
end

