-- ==== Sys2Proof/Machine/Access.lean ====
section
/-! DEFINITION. What the outside world does to the block, and what it gets back: bus accesses, host events, answers, sink transactions. -/

namespace Sys2Proof.Machine

/-- A host bus operation (R60): `MemRead(addr, n)` and `MemWrite(addr, n, v)`.
The datum of a write whose width is not 4 is discarded (R233), so a 32-bit `v` holds every datum that matters. -/
inductive Access where
  | read (addr : Offset) (n : Nat)
  | write (addr : Offset) (n : Nat) (v : Word)
  deriving DecidableEq, Repr

/-- The byte offset an access names. -/
def Access.addr : Access → Offset
  | .read a _ => a
  | .write a _ _ => a

/-- The width of an access in bytes. -/
def Access.width : Access → Nat
  | .read _ n => n
  | .write _ n _ => n

/-- What the host and its platform do next. -/
inductive HostEvent where
  /-- A bus access, by its offset in the register window (R60). -/
  | access (a : Access)
  /-- A host read of `n` bytes at an address of the host's own address space; `BASE` says whether it reaches the block (R60). -/
  | busRead (addr : Nat) (n : Nat)
  /-- A host write at an address of the host's own address space. -/
  | busWrite (addr : Nat) (n : Nat) (v : Word)
  /-- A host-side delay; the block observes nothing (R88, R209). -/
  | wait (d : Nat)
  /-- The host takes up a climate control request (R202). -/
  | control (r : ControlRequest)
  /-- Power-up, which always asserts the block's reset (R260, R244). -/
  | reset
  /-- Any other platform event, by the platform's number for it: `RESET_SOURCE` says whether it asserts the reset (R260). -/
  | platform (source : Nat)
  /-- A bus that does not keep issue order delivers the event `k` places behind this one next (R71, log entry 8). -/
  | overtake (k : Nat)
  deriving DecidableEq, Repr

/-- What of an event reaches the block. -/
inductive BlockInput where
  | access (a : Access)
  | reset
  | nothing
  deriving DecidableEq, Repr

/-- What the host learns, in the order it learns it. -/
inductive Answer where
  /-- The value a read returned. -/
  | value (v : Word)
  /-- A write completed. -/
  | written
  /-- The access ended with BusError(addr, n) (R233). -/
  | busError (addr : Offset) (n : Nat)
  /-- The host's own diagnostic that no sink is attached, so nothing was transmitted (R211). -/
  | noSink
  deriving DecidableEq, Repr

/-- One sink-port transaction (R34). -/
structure Transaction where
  hz : Word
  seq : List Duration
  deriving DecidableEq, Repr

end Sys2Proof.Machine
end

