-- ==== Sys2Proof/Machine/State.lean ====
section
/-! DEFINITION. The machine's state, one part per agent (R3), its value at reset (R261), and the reasons a step can stop. -/

namespace Sys2Proof.Machine

/-- The WORD buffer, `WORD[0..3]` (R30). -/
structure WordBuf where
  w0 : Word
  w1 : Word
  w2 : Word
  w3 : Word
  deriving DecidableEq, Repr

/-- The block's architectural state (R20). CMD stores nothing (R22), so it has no field. -/
structure Block where
  /-- STATUS (R23). -/
  status : Word
  /-- REQ (R24). -/
  req : Word
  /-- CARRIER_KHZ (R27). -/
  carrierKhz : Word
  /-- HDR (R28). -/
  hdr : Word
  /-- ONE (R28). -/
  one : Word
  /-- ZERO (R28). -/
  zero : Word
  /-- SERCFG (R29). -/
  sercfg : Word
  /-- `WORD[0..3]` (R30). -/
  word : WordBuf
  /-- PULSE_LEN (R31). -/
  pulseLen : Word
  /-- CARRIER_HZ (R32). -/
  carrierHz : Word
  /-- `PULSE[0..PULSE_CAP-1]` (R33): a list of `Config.pulseCap` entries (Safety.lean's `Block.wf` says so). -/
  pulse : List Duration
  deriving DecidableEq, Repr

/-- The host's part: what it owns (R201, R6) and the model's record of its bus traffic. -/
structure HostSide where
  /-- S (R201). -/
  climate : Climate
  /-- LKG (R201). -/
  lkg : Snapshot
  /-- The OPEN parameters of R6 and the sink's presence (R211). -/
  params : HostParams
  /-- The model's own: events not yet taken, in issue order (R70). -/
  queue : List HostEvent
  /-- The model's own: what the host was answered, oldest first. -/
  log : List Answer
  deriving DecidableEq, Repr

/-- The three agents of R3. -/
structure State where
  block : Block
  /-- The sink-port history, oldest first (R34). -/
  sink : List Transaction
  host : HostSide
  deriving DecidableEq, Repr

/-- Why a step stops. -/
inductive Fault where
  /-- Raised by a bus access whose width is not 4 or whose offset is misaligned, on a platform whose response to a
  BusError is `abort` (R233: "A model treats BusError as a fault of the host's step"). Safe: the block's state is
  unchanged on the hardware too, and a host program that would go on has the response `report`. -/
  | busError (addr : Offset) (n : Nat)
  deriving DecidableEq, Repr

/-- Why the model gives no meaning. -/
inductive Refusal where
  /-- Raised by an arm of `exec` whose command has no meaning yet; no arm raises it now. Safe. -/
  | notModelled (mnemonic : String)
  deriving DecidableEq, Repr

/-- The block after reset (R261). -/
def Block.reset : Block where
  status := 0x00000000
  req := 0x180020C0
  carrierKhz := 0x00000000
  hdr := 0x00000000
  one := 0x00000000
  zero := 0x00000000
  sercfg := 0x00000000
  word := ⟨0, 0, 0, 0⟩
  pulseLen := 0x00000000
  carrierHz := 0x00000000
  pulse := List.replicate Config.pulseCap 0

/-- The host before its first request (R204), with nothing issued and nothing answered (log entries 1 and 2). -/
def HostSide.initial : HostSide where
  climate := Climate.initial
  lkg := Snapshot.initial
  params := HostParams.initial
  queue := []
  log := []

/-- The machine right after reset (R261, R204). -/
def State.reset : State where
  block := Block.reset
  sink := []
  host := HostSide.initial

end Sys2Proof.Machine
end

