-- ==== Sys2Proof/Machine/Flags.lean ====
section
/-! DEFINITION. The one flag of the block, STATUS.ILL: how it is set and how the host clears it. -/

namespace Sys2Proof.Machine

/-- STATUS.ILL, bit [0] (R23). -/
def illFlag (b : Block) : Bool := b.status.getLsbD 0

/-- `STATUS.ILL <- 1`: the flag is set, the other bits stay (R231). -/
def Block.setIll (b : Block) : Block := { b with status := b.status ||| 1 }

/-- A host write of `v` to STATUS: writing 1 to ILL clears it, writing 0 leaves it; the other bits ignore the write (R23). -/
def Block.writeStatus (b : Block) (v : Word) : Block :=
  { b with status := if v.getLsbD 0 then b.status &&& ~~~1 else b.status }

end Sys2Proof.Machine
end

