-- ==== Sys2Proof/Machine/Operands.lean ====
section
/-! DEFINITION. The operand forms: the fields of REQ, of the timing registers, of CARRIER_KHZ, SERCFG and PULSE_LEN, and the WORD buffer by index. -/

namespace Sys2Proof.Machine

/-- The fields of REQ as stored, unmapped codes included (R24).
The defaults are the fields of REQ's reset value, which a field left out of `req` takes (R90). -/
structure ReqFields where
  power : Bool := false
  mode : BitVec 3 := 0
  fan : BitVec 2 := 0
  vane : BitVec 3 := 3
  lr : Bool := false
  health : Bool := false
  sleep : Bool := false
  timer : Bool := false
  tvalid : Bool := true
  temp : BitVec 16 := 0x1800
  deriving DecidableEq, Repr

/-- The fields of a REQ word at their places (R24). -/
def reqFields (w : Word) : ReqFields where
  power := w.getLsbD 0
  mode := w.extractLsb' 1 3
  fan := w.extractLsb' 4 2
  vane := w.extractLsb' 6 3
  lr := w.getLsbD 9
  health := w.getLsbD 10
  sleep := w.getLsbD 11
  timer := w.getLsbD 12
  tvalid := w.getLsbD 13
  temp := w.extractLsb' 16 16

/-- A flag as a word, for packing. -/
def flagWord (b : Bool) : Word := if b then 1 else 0

/-- The REQ word of given fields (R90). -/
def ReqFields.value (f : ReqFields) : Word :=
  (f.temp.setWidth 32 <<< 16) ||| (flagWord f.tvalid <<< 13) ||| (flagWord f.timer <<< 12)
    ||| (flagWord f.sleep <<< 11) ||| (flagWord f.health <<< 10) ||| (flagWord f.lr <<< 9)
    ||| (f.vane.setWidth 32 <<< 6) ||| (f.fan.setWidth 32 <<< 4) ||| (f.mode.setWidth 32 <<< 1)
    ||| flagWord f.power

/-- MARK of HDR, ONE or ZERO, bits [15:0] (R28). -/
def markOf (w : Word) : Duration := w.extractLsb' 0 16

/-- SPACE of HDR, ONE or ZERO, bits [31:16] (R28). -/
def spaceOf (w : Word) : Duration := w.extractLsb' 16 16

/-- The word of a timing register, `(space << 16) | mark` (R28, R89). -/
def timingWord (mark space : Duration) : Word := (space.setWidth 32 <<< 16) ||| mark.setWidth 32

/-- CARRIER_KHZ.KHZ, bits [15:0] (R27). -/
def khzField (w : Word) : BitVec 16 := w.extractLsb' 0 16

/-- SERCFG.BITCOUNT, bits [15:0] (R29). -/
def bitCountField (w : Word) : BitVec 16 := w.extractLsb' 0 16

/-- SERCFG.MSB, bit [16]: false is `LSB_FIRST`, true is `MSB_FIRST` (R29). -/
def msbField (w : Word) : Bool := w.getLsbD 16

/-- The word of SERCFG, `((MSB ? 1 : 0) << 16) | count` (R29, R89). -/
def sercfgWord (count : BitVec 16) (msb : Bool) : Word := (flagWord msb <<< 16) ||| count.setWidth 32

/-- PULSE_LEN.LEN, bits [15:0] (R31). -/
def lenField (w : Word) : BitVec 16 := w.extractLsb' 0 16

/-- `WORD[i]` (R30). No command reads an index past 3, since every bit index is below `MAX_BITS` (R152); 0 stands there. -/
def WordBuf.get (b : WordBuf) : Nat → Word
  | 0 => b.w0
  | 1 => b.w1
  | 2 => b.w2
  | 3 => b.w3
  | _ => 0

/-- `PULSE[k]` (R33). No access names an index past the buffer; 0 stands there. -/
def Block.pulseAt (b : Block) (k : Nat) : Duration := b.pulse.getD k 0

end Sys2Proof.Machine
end

