-- ==== Sys2Proof/Machine/Ops.lean ====
section
/-! DEFINITION. The shared operations: frame-word packing, named state updates, the register map with reads and writes, and the two error outcomes. -/

namespace Sys2Proof.Machine

/-- A frame word from its bytes, `(b0<<24)|(b1<<16)|(b2<<8)|b3` (R7, R65). -/
def packWord (b0 b1 b2 b3 : Byte) : Word :=
  (b0.setWidth 32 <<< 24) ||| (b1.setWidth 32 <<< 16) ||| (b2.setWidth 32 <<< 8) ||| b3.setWidth 32

/-- The bytes of a frame word in the order b0, b1, b2, b3 (R7, R111). -/
def wordBytes (w : Word) : List Byte :=
  [w.extractLsb' 24 8, w.extractLsb' 16 8, w.extractLsb' 8 8, w.extractLsb' 0 8]

/-! Named updates of the state. -/

/-- The WORD buffer replaced. -/
def Block.withWord (b : Block) (w : WordBuf) : Block := { b with word := w }

/-- The PULSE buffer, its length and the carrier in Hz replaced. -/
def Block.withTrain (b : Block) (pulse : List Duration) (len hz : Word) : Block :=
  { b with pulse := pulse, pulseLen := len, carrierHz := hz }

/-- The five registers of a preset replaced. -/
def Block.withTiming (b : Block) (khz hdr one zero sercfg : Word) : Block :=
  { b with carrierKhz := khz, hdr := hdr, one := one, zero := zero, sercfg := sercfg }

/-- The block's part replaced. -/
def State.withBlock (s : State) (b : Block) : State := { s with block := b }

/-- `emit_sink`: one more transaction at the end of the sink history (R10, R165). -/
def State.emit (s : State) (t : Transaction) : State := { s with sink := s.sink ++ [t] }

/-- One more answer at the end of the host's log. -/
def State.answer (s : State) (a : Answer) : State :=
  { s with host := { s.host with log := s.host.log ++ [a] } }

/-- The events the host has yet to issue, replaced. -/
def State.withQueue (s : State) (q : List HostEvent) : State :=
  { s with host := { s.host with queue := q } }

/-- The host's two records replaced (R202, R203). -/
def State.withRecords (s : State) (c : Climate) (l : Snapshot) : State :=
  { s with host := { s.host with climate := c, lkg := l } }

/-! The register map (R21). -/

/-- The registers of the map; `pulse k` is the window word at `0x100 + 4k` (R33). -/
inductive Reg where
  | cmd
  | status
  | req
  | carrierKhz
  | hdr
  | one
  | zero
  | sercfg
  | word0
  | word1
  | word2
  | word3
  | pulseLen
  | carrierHz
  | pulse (k : Nat)
  deriving DecidableEq, Repr

/-- The register at a 4-byte-aligned offset; none where R21 reserves the offset. -/
def regAt (addr : Offset) : Option Reg :=
  match addr.toNat with
  | 0x000 => some .cmd
  | 0x004 => some .status
  | 0x008 => some .req
  | 0x00C => some .carrierKhz
  | 0x010 => some .hdr
  | 0x014 => some .one
  | 0x018 => some .zero
  | 0x01C => some .sercfg
  | 0x020 => some .word0
  | 0x024 => some .word1
  | 0x028 => some .word2
  | 0x02C => some .word3
  | 0x030 => some .pulseLen
  | 0x034 => some .carrierHz
  | a => if 0x100 ≤ a ∧ a < 0x304 then some (.pulse ((a - 0x100) / 4)) else none

/-- The offset of a register (R21), as the host programs of R88 name it. -/
def Reg.offset : Reg → Offset
  | .cmd => 0x000
  | .status => 0x004
  | .req => 0x008
  | .carrierKhz => 0x00C
  | .hdr => 0x010
  | .one => 0x014
  | .zero => 0x018
  | .sercfg => 0x01C
  | .word0 => 0x020
  | .word1 => 0x024
  | .word2 => 0x028
  | .word3 => 0x02C
  | .pulseLen => 0x030
  | .carrierHz => 0x034
  | .pulse k => BitVec.ofNat 12 (0x100 + 4 * k)

/-- The window word `k`: `(zext_32(PULSE[2k+1]) << 16) | zext_32(PULSE[2k])` (R33). -/
def Block.windowWord (b : Block) (k : Nat) : Word :=
  ((b.pulseAt (2 * k + 1)).setWidth 32 <<< 16) ||| (b.pulseAt (2 * k)).setWidth 32

/-- What a read of a register returns (R22-R33). CMD reads 0. -/
def readReg (b : Block) : Reg → Word
  | .cmd => 0
  | .status => b.status
  | .req => b.req
  | .carrierKhz => b.carrierKhz
  | .hdr => b.hdr
  | .one => b.one
  | .zero => b.zero
  | .sercfg => b.sercfg
  | .word0 => b.word.w0
  | .word1 => b.word.w1
  | .word2 => b.word.w2
  | .word3 => b.word.w3
  | .pulseLen => b.pulseLen
  | .carrierHz => b.carrierHz
  | .pulse k => b.windowWord k

/-- A legal read at an offset; a reserved offset reads 0 (R63). -/
def readOffset (b : Block) (addr : Offset) : Word :=
  match regAt addr with
  | some r => readReg b r
  | none => 0

/-- The writable bits of REQ: all but [15:14] (R24). -/
def reqMask : Word := 0xFFFF3FFF

/-- The writable bits of CARRIER_KHZ: [15:0] (R27). -/
def carrierKhzMask : Word := 0x0000FFFF

/-- The writable bits of SERCFG: [16:0] (R29). -/
def sercfgMask : Word := 0x0001FFFF

/-- What a write of `v` to a register other than CMD stores: its writable fields, with reserved bits 0; STATUS is W1C;
read-only registers ignore the write (R63, R234). A CMD write stores nothing (R22); its command is `accessEffect`'s. -/
def writeReg (b : Block) (v : Word) : Reg → Block
  | .cmd => b
  | .status => b.writeStatus v
  | .req => { b with req := v &&& reqMask }
  | .carrierKhz => { b with carrierKhz := v &&& carrierKhzMask }
  | .hdr => { b with hdr := v }
  | .one => { b with one := v }
  | .zero => { b with zero := v }
  | .sercfg => { b with sercfg := v &&& sercfgMask }
  | .word0 => b.withWord { b.word with w0 := v }
  | .word1 => b.withWord { b.word with w1 := v }
  | .word2 => b.withWord { b.word with w2 := v }
  | .word3 => b.withWord { b.word with w3 := v }
  | .pulseLen => b
  | .carrierHz => b
  | .pulse _ => b

/-! The two error outcomes (R230). Neither transfers control, so there is no return from either (R236, R237). -/

/-- `raise IllegalCommand(v)`: `STATUS.ILL <- 1` and nothing else; the word is not recorded (R231). -/
def raiseIllegalCommand (s : State) : State := s.withBlock s.block.setIll

/-- `raise BusError(addr, n)`: nothing in the block changes; the platform's response carries the error (R233). -/
def raiseBusError (addr : Offset) (n : Nat) (s : State) : Host.Outcome State Fault Refusal :=
  match s.host.params.busErrorResponse with
  | .abort => .fault (.busError addr n)
  | .report => .next (s.answer (.busError addr n))

end Sys2Proof.Machine
end

