-- ==== Sys2Proof/Machine/HostSyntax.lean ====
section
/-! DEFINITION. The host bus-operation syntax and its pseudo-operations, as host events (R88-R90). -/

namespace Sys2Proof.Machine

/-- `wr <reg>, <value>` (R88). -/
def wr (r : Reg) (v : Word) : HostEvent := .access (.write r.offset 4 v)

/-- `rd <reg>` (R88). -/
def rd (r : Reg) : HostEvent := .access (.read r.offset 4)

/-- `wr @<offset>, <value>` (R88). -/
def wrAt (a : Offset) (v : Word) : HostEvent := .access (.write a 4 v)

/-- `rd @<offset>` (R88). -/
def rdAt (a : Offset) : HostEvent := .access (.read a 4)

/-- `wrn <n> @<offset>, <value>` (R88). -/
def wrn (n : Nat) (a : Offset) (v : Word) : HostEvent := .access (.write a n v)

/-- `rdn <n> @<offset>` (R88). -/
def rdn (n : Nat) (a : Offset) : HostEvent := .access (.read a n)

/-- `cmd <command>` (R89). -/
def cmd (i : Instr) : HostEvent := wr .cmd (encode i)

/-- `clr_ill` (R89). -/
def clrIll : HostEvent := wr .status 0x00000001

/-- `req <fields>`; a field left out takes its reset value, which `ReqFields` has as its default (R89, R90). -/
def req (f : ReqFields) : HostEvent := wr .req f.value

/-- `timing <reg>, <mark>, <space>`, for HDR, ONE or ZERO (R89). -/
def timing (r : Reg) (mark space : Duration) : HostEvent := wr r (timingWord mark space)

/-- `sercfg <count>, <LSB|MSB>` (R89). -/
def sercfg (count : BitVec 16) (msb : Bool) : HostEvent := wr .sercfg (sercfgWord count msb)

/-- A decimal °C value as REQ.TEMP: `floor(T * 256)` saturated to 16 bits (R90, R207). -/
def tempOfCelsius (t : Rat) : BitVec 16 := BitVec.ofInt 16 (max (-32768) (min 32767 (t * 256).floor))

end Sys2Proof.Machine
end

