-- ==== Sys2Proof/Machine/Orchestration.lean ====
section
/-! DEFINITION. The host's contract: merging a request, the snapshot, the effective state, and the command sequence of one request (R201-R211). -/

namespace Sys2Proof.Machine

/-- Merge: only the fields present in the request change S (R202). -/
def merge (r : ControlRequest) (c : Climate) : Climate where
  powerOn := r.powerOn.getD c.powerOn
  mode := r.mode.getD c.mode
  temperature := r.temperature.getD c.temperature
  fan := r.fan.getD c.fan
  swing := r.swing.getD c.swing
  health := r.health.getD c.health
  sleep := r.sleep.getD c.sleep
  timerOn := r.timerOn.getD c.timerOn

/-- LKG after a merge: the snapshot of S when power is on, else unchanged (R203). -/
def updateLkg (c : Climate) (l : Snapshot) : Snapshot :=
  if c.powerOn then
    { mode := c.mode, temperature := c.temperature, fan := c.fan, swing := c.swing }
  else l

/-- E: S when power is on; when off, the four snapshot fields from LKG and the rest from S (R203, R205). -/
def effective (c : Climate) (l : Snapshot) : Climate :=
  if c.powerOn then c
  else { c with mode := l.mode, temperature := l.temperature, fan := l.fan, swing := l.swing }

/-- `VSWEEP_CODE` as a vane state (R206). -/
def vsweepVane : VSweepCode → BitVec 3
  | .zero => 0
  | .six => 6

/-- Swing resolution to (VANE, LRSWEEP) (R206). -/
def resolveSwing (v : VSweepCode) : Setting Swing → BitVec 3 × Bool
  | .known .off => (3, false)
  | .known .vertical => (vsweepVane v, false)
  | .known .horizontal => (3, true)
  | .known .both => (vsweepVane v, true)
  | .unmapped => (3, false)

/-- MODE by its codes; a value the host cannot map becomes Cool (R207). -/
def modeCode : Setting Mode → BitVec 3
  | .known .cool => 0
  | .known .heat => 1
  | .known .dry => 2
  | .known .fanOnly => 3
  | .known .auto => 4
  | .unmapped => 0

/-- FAN by its codes; a value the host cannot map becomes Auto (R207). -/
def fanCode : Setting Fan → BitVec 2
  | .known .auto => 0
  | .known .low => 1
  | .known .medium => 2
  | .known .high => 3
  | .unmapped => 0

/-- (TVALID, TEMP) of a temperature (R207). -/
def tempCode : Temperature → Bool × BitVec 16
  | .celsius t => (true, tempOfCelsius t)
  | .undefined => (false, 0)

/-- REQ built from E (R207). -/
def requestFields (v : VSweepCode) (e : Climate) : ReqFields where
  power := e.powerOn
  mode := modeCode e.mode
  fan := fanCode e.fan
  vane := (resolveSwing v e.swing).1
  lr := (resolveSwing v e.swing).2
  health := e.health
  sleep := e.sleep
  timer := e.timerOn
  tvalid := (tempCode e.temperature).1
  temp := (tempCode e.temperature).2

/-- The re-transmission of a device revision that re-transmits: a delay and one more TRANSMIT, with no SERIALIZE between (R209). -/
def retransmission : Option Nat → List HostEvent
  | none => []
  | some d => [.wait d, cmd .transmit]

/-- TRANSMIT and its re-transmission; a host with no sink does not issue them (R208, R209, R211). -/
def transmission (p : HostParams) : List HostEvent :=
  if p.sinkAttached then cmd .transmit :: retransmission p.retransmit else []

/-- The command sequence of one control request (R208). -/
def controlSequence (p : HostParams) (e : Climate) : List HostEvent :=
  [req (requestFields p.vsweepCode e), cmd .encode, cmd (.loadPreset p.headerVariant p.frameBits), cmd .serialize]
    ++ transmission p

/-- The host's own report when it transmits nothing for want of a sink (R211). -/
def reportSink (s : State) : State := if s.host.params.sinkAttached then s else s.answer .noSink

/-- The host takes up a request: merge, snapshot, effective state, and the sequence ahead of what it issues later (R202, R203, R208). -/
def takeControl (r : ControlRequest) (s : State) : State :=
  let c := merge r s.host.climate
  let l := updateLkg c s.host.lkg
  (reportSink (s.withRecords c l)).withQueue
    (controlSequence s.host.params (effective c l) ++ s.host.queue)

end Sys2Proof.Machine
end

