-- ==== Sys2Proof/Machine/Platform.lean ====
section
/-! DEFINITION. The platform between host and block: where the register window sits (BASE), which events assert reset
(RESET_SOURCE), and what a bus that does not keep issue order may do (BUS_ORDERED). -/

namespace Sys2Proof.Machine

/-- The offset of a host address in the window at `base`; none outside it (R60). -/
def windowOffset (base addr : Nat) : Option Offset :=
  if base ≤ addr ∧ addr < base + Config.windowBytes then some (BitVec.ofNat 12 (addr - base)) else none

/-- What of an event reaches the block under a platform's parameters. An access outside the window is another device's. -/
def HostEvent.input (p : HostParams) : HostEvent → BlockInput
  | .access a => .access a
  | .busRead addr n =>
    match windowOffset p.base addr with
    | some a => .access (.read a n)
    | none => .nothing
  | .busWrite addr n v =>
    match windowOffset p.base addr with
    | some a => .access (.write a n v)
    | none => .nothing
  | .wait _ => .nothing
  | .control _ => .nothing
  | .reset => .reset
  | .platform source => if source ∈ p.resetSources then .reset else .nothing
  | .overtake _ => .nothing

/-- The events that the bus carries, or that nothing observes: those whose order a bus may change. -/
def HostEvent.reorderable : HostEvent → Bool
  | .access _ => true
  | .busRead _ _ => true
  | .busWrite _ _ _ => true
  | .wait _ => true
  | .control _ => false
  | .reset => false
  | .platform _ => false
  | .overtake _ => true

/-- A queue with its event `k` brought to the front, where all up to it can be reordered; else as it is. -/
def bringForward (k : Nat) (q : List HostEvent) : List HostEvent :=
  match q[k]? with
  | some e => if (q.take (k + 1)).all HostEvent.reorderable then e :: q.eraseIdx k else q
  | none => q

/-- A later event overtakes, if the bus does not keep issue order (R71). -/
def takeOvertake (k : Nat) (s : State) : State :=
  if s.host.params.busOrdered then s else s.withQueue (bringForward k s.host.queue)

end Sys2Proof.Machine
end

