-- ==== Sys2Proof/Machine/Bus.lean ====
section
/-! DEFINITION. What the machine does with the host's next event, short of running a command: the checks of R235 in their order. -/

namespace Sys2Proof.Machine

/-- Width and alignment: only 4 bytes, at a multiple of 4 (R61, R62). -/
def Access.legal (a : Access) : Bool := a.width == 4 && a.addr.toNat % 4 == 0

/-- What an event comes to: a command to run in a state, or an outcome at once. -/
inductive Effect where
  | run (i : Instr) (s : State)
  | done (o : Host.Outcome State Fault Refusal)

/-- A legal write (R63): a CMD write decodes its word and runs it, an illegal word is IllegalCommand; any other register
stores its writable fields; a reserved offset ignores the write. -/
def writeEffect (addr : Offset) (v : Word) (s : State) : Effect :=
  match regAt addr with
  | some .cmd =>
    match decode v with
    | .instr i => .run i (s.answer .written)
    | .illegal _ => .done (.next ((raiseIllegalCommand s).answer .written))
  | some r => .done (.next ((s.withBlock (writeReg s.block v r)).answer .written))
  | none => .done (.next (s.answer .written))

/-- An access: width and alignment first, then the read or the write (R235, R63). -/
def accessEffect (a : Access) (s : State) : Effect :=
  if a.legal then
    match a with
    | .read addr _ => .done (.next (s.answer (.value (readOffset s.block addr))))
    | .write addr _ v => writeEffect addr v s
  else .done (raiseBusError a.addr a.width s)

/-- Reset: every piece of block state at its reset value, the sink history empty, nothing emitted (R260, R261).
The host's records are not the block's and stay (R35). -/
def resetBlock (s : State) : State := { s with block := Block.reset, sink := [] }

/-- What an event does on the host's side of the bus: a request is taken up, a later event overtakes; else nothing (R88). -/
def hostEffect (e : HostEvent) (s : State) : State :=
  match e with
  | .control r => takeControl r s
  | .overtake k => takeOvertake k s
  | .access _ => s
  | .busRead _ _ => s
  | .busWrite _ _ _ => s
  | .wait _ => s
  | .reset => s
  | .platform _ => s

/-- What one event comes to: the block answers an access or is reset, and otherwise it sees nothing. -/
def eventEffect (e : HostEvent) (s : State) : Effect :=
  match e.input s.host.params with
  | .access a => accessEffect a s
  | .reset => .done (.next (resetBlock s))
  | .nothing => .done (.next (hostEffect e s))

/-- The host's next event is taken from the front of its queue (R70); with none, nothing happens. -/
def nextEffect (s : State) : Effect :=
  match s.host.queue with
  | [] => .done (.next s)
  | e :: rest => eventEffect e (s.withQueue rest)

/-- A command word of the opcode table placed as the host's next CMD write, ahead of what it has queued. -/
def placeCommand (s : State) (nbits w : Nat) : State :=
  s.withQueue (wr .cmd (BitVec.ofNat 32 (w % 2 ^ nbits)) :: s.host.queue)

end Sys2Proof.Machine
end

