-- ==== Sys2Proof/Machine/Control.lean ====
section
/-! DEFINITION. The control commands: NOP (R180) and LOAD_PRESET (R182), with the protocol constants (R181). -/

namespace Sys2Proof.Machine

/-- NOP: no state changes (R180). -/
def execNop (s : State) : Host.Outcome State Fault Refusal := .next s

/-- The carrier of the protocol, 38 kHz (R181). -/
def presetKhz : Word := 38

/-- The header pair of a variant (R181). -/
def presetHdr : HeaderVariant → Word
  | .h8950 => timingWord 8950 4450
  | .h9000 => timingWord 9000 4500

/-- The one-bit pair, 550/1650 µs (R181). -/
def presetOne : Word := timingWord 550 1650

/-- The zero-bit pair, 550/550 µs (R181). -/
def presetZero : Word := timingWord 550 550

/-- The bit count of a variant, `LSB_FIRST` (R181). -/
def presetSercfg : FrameBits → Word
  | .bits104 => sercfgWord 104 false
  | .bits105 => sercfgWord 105 false

/-- LOAD_PRESET hv, fb: overwrite the five timing registers with one preset; nothing else is touched (R182). -/
def execLoadPreset (hv : HeaderVariant) (fb : FrameBits) (s : State) : Host.Outcome State Fault Refusal :=
  .next (s.withBlock
    (s.block.withTiming presetKhz (presetHdr hv) presetOne presetZero (presetSercfg fb)))

end Sys2Proof.Machine
end

