-- ==== Sys2Proof/Machine/Encode.lean ====
section
/-! DEFINITION. The frame encoder: ENCODE and the functions it applies (R100-R111). -/

namespace Sys2Proof.Machine

/-- A request with its enumerations normalised (R101); `vane` is in 0..6. -/
structure Settings where
  power : Bool
  mode : Mode
  fan : Fan
  vane : BitVec 3
  lr : Bool
  health : Bool
  sleep : Bool
  timer : Bool
  deriving DecidableEq, Repr

/-- REQ.MODE by its codes; an unmapped code is Cool (R24, R101). -/
def normaliseMode (c : BitVec 3) : Mode :=
  match c.toNat with
  | 0 => .cool
  | 1 => .heat
  | 2 => .dry
  | 3 => .fanOnly
  | 4 => .auto
  | _ => .cool

/-- REQ.FAN by its codes, all mapped (R24, R101). -/
def fanOfCode (c : BitVec 2) : Fan :=
  match c.toNat with
  | 0 => .auto
  | 1 => .low
  | 2 => .medium
  | _ => .high

/-- REQ.VANE: 0..6 as given, the unmapped code 7 is the fixed middle (R101). -/
def normaliseVane (c : BitVec 3) : BitVec 3 := if c.toNat ≤ 6 then c else 3

/-- `normalise_enums` (R101). -/
def normaliseEnums (f : ReqFields) : Settings where
  power := f.power
  mode := normaliseMode f.mode
  fan := fanOfCode f.fan
  vane := normaliseVane f.vane
  lr := f.lr
  health := f.health
  sleep := f.sleep
  timer := f.timer

/-- `normalise_temp`, in units of 1/256 °C: absent is 24.0, then the clamp to [16.0, 30.0] on signed values (R102). -/
def normaliseTemp (tvalid : Bool) (temp : BitVec 16) : Int :=
  let t : Int := if tvalid then temp.toInt else 0x1800
  min (max t 0x1000) 0x1E00

/-- `full_deg`: the temperature rounded down to a whole degree (R103). -/
def fullDeg (t : Int) : Int := t / 256

/-- `half`: bit 7 of the temperature, set when its fraction is at least 0.5 (R103). -/
def halfDeg (t : Int) : Bool := (BitVec.ofInt 16 t).getLsbD 7

/-- `base_temp = 8*full_deg - 57` (R104). -/
def baseTemp (full : Int) : Int := 8 * full - 57

/-- `temp_byte = base_temp + vertical_vane_state - 7` (R105). -/
def tempByte (full : Int) (vane : BitVec 3) : Byte := BitVec.ofInt 8 (baseTemp full + vane.toNat - 7)

/-- W0 (R106). -/
def word0 (full : Int) (half : Bool) (vane : BitVec 3) (lr : Bool) : Word :=
  packWord (if half then 0x80 else 0x00) (if lr then 0x00 else 0xE0) (tempByte full vane) 0xC3

/-- The mode selector of W1.b1 (R107). -/
def modeSelector : Mode → Byte
  | .cool => 0x20
  | .heat => 0x80
  | .dry => 0x40
  | .fanOnly => 0xC0
  | .auto => 0x00

/-- The fan selector of W1.b3 (R108). -/
def fanSelector : Fan → Byte
  | .auto => 0xA0
  | .low => 0x60
  | .medium => 0x40
  | .high => 0x20

/-- W1 (R107, R108). -/
def word1 (mode : Mode) (fan : Fan) (health sleep : Bool) : Word :=
  packWord 0x00
    (modeSelector mode ||| (if health then 0x10 else 0x00) ||| (if sleep then 0x04 else 0x00))
    0x00 (fanSelector fan)

/-- W2.b0 with power on (R110). -/
def modeClass : Mode → Byte
  | .heat => 0x02
  | .cool => 0x02
  | .dry => 0x06
  | .fanOnly => 0x06
  | .auto => 0x06

/-- W2.b2 with power on: the timer in Heat overrides health and base (R110). -/
def miscByte (mode : Mode) (health timer : Bool) : Byte :=
  if timer && mode = .heat then 0x60
  else (if mode = .heat then 0x30 else 0x20) ||| (if health then 0x02 else 0x00)

/-- W2: the fixed power-off word (R109), or the power-on word (R110). -/
def word2 (power : Bool) (mode : Mode) (health timer : Bool) : Word :=
  if power then packWord (modeClass mode) 0x00 (miscByte mode health timer) 0x00
  else 0x05000000

/-- The checksum: the sum of the twelve bytes mod 256 (R111). -/
def checksum (w0 w1 w2 : Word) : Byte :=
  BitVec.ofNat 8 (((wordBytes w0 ++ wordBytes w1 ++ wordBytes w2).map BitVec.toNat).sum % 256)

/-- The frame of given settings and temperature, with the checksum in `WORD[3][7:0]` (R100, R111). -/
def frameOf (c : Settings) (t : Int) : WordBuf :=
  let w0 := word0 (fullDeg t) (halfDeg t) c.vane c.lr
  let w1 := word1 c.mode c.fan c.health c.sleep
  let w2 := word2 c.power c.mode c.health c.timer
  { w0 := w0, w1 := w1, w2 := w2, w3 := (checksum w0 w1 w2).setWidth 32 }

/-- The frame ENCODE computes from a REQ word (R100). -/
def encodeFrame (req : Word) : WordBuf :=
  let f := reqFields req
  frameOf (normaliseEnums f) (normaliseTemp f.tvalid f.temp)

/-- ENCODE: compute the frame from REQ into `WORD[0..3]`; nothing else is read or written (R100, R112). -/
def execEncode (s : State) : Host.Outcome State Fault Refusal :=
  .next (s.withBlock (s.block.withWord (encodeFrame s.block.req)))

end Sys2Proof.Machine
end

