-- ==== Sys2Proof/Machine/Serialize.lean ====
section
/-! DEFINITION. The waveform serializer: SERIALIZE (R150-R158) and TRANSMIT (R165). -/

namespace Sys2Proof.Machine

/-- The capped bit count, `n = min(SERCFG.BITCOUNT, MAX_BITS)` (R152). -/
def cappedCount (sercfg : Word) : Nat := min (bitCountField sercfg).toNat Config.maxBits

/-- Bit `i` of the word array in the chosen order (R153). -/
def dataBit (msb : Bool) (w : WordBuf) (i : Nat) : Bool :=
  if msb then (w.get (i / 32)).getLsbD (31 - i % 32) else (w.get (i / 32)).getLsbD (i % 32)

/-- The mark and space of a timing register, in the order they are emitted (R153). -/
def pairOf (timing : Word) : List Duration := [markOf timing, spaceOf timing]

/-- The raw train: the header pair, then one pair per bit in increasing order (R153). -/
def rawTrain (b : Block) : List Duration :=
  pairOf b.hdr ++ (List.range (cappedCount b.sercfg)).flatMap fun i =>
    pairOf (if dataBit (msbField b.sercfg) b.word i then b.one else b.zero)

/-- The pulse train: zero-duration entries dropped (R154). -/
def train (b : Block) : List Duration := (rawTrain b).filter (· ≠ 0)

/-- The PULSE buffer holding a train, with 0 in every entry past it (R157). -/
def padTrain (p : List Duration) : List Duration := p ++ List.replicate (Config.pulseCap - p.length) 0

/-- The carrier in Hz, `zext_32(CARRIER_KHZ.KHZ) * 1000` (R158). -/
def carrierInHz (carrierKhz : Word) : Word := (khzField carrierKhz).setWidth 32 * 1000

/-- SERIALIZE: build the pulse train into PULSE, PULSE_LEN and CARRIER_HZ; nothing else is written (R150, R160). -/
def execSerialize (s : State) : Host.Outcome State Fault Refusal :=
  let p := train s.block
  .next (s.withBlock
    (s.block.withTrain (padTrain p) (BitVec.ofNat 32 p.length) (carrierInHz s.block.carrierKhz)))

/-- The transaction TRANSMIT hands over: the carrier and the valid entries of the buffer (R165). -/
def transaction (b : Block) : Transaction where
  hz := b.carrierHz
  seq := b.pulse.take (lenField b.pulseLen).toNat

/-- TRANSMIT: append one transaction to the sink history; no register is written, and the sink always accepts (R165, R167). -/
def execTransmit (s : State) : Host.Outcome State Fault Refusal := .next (s.emit (transaction s.block))

end Sys2Proof.Machine
end

