-- ==== Sys2Proof/Machine/Dispatch.lean ====
section
/-! DEFINITION. One arm per command: the dispatch of R85's `execute`. -/

namespace Sys2Proof.Machine

def exec (i : Instr) (s : State) : Host.Outcome State Fault Refusal :=
  match i with
  | .nop => Sys2Proof.Machine.execNop s
  | .encode => Sys2Proof.Machine.execEncode s
  | .serialize => Sys2Proof.Machine.execSerialize s
  | .transmit => Sys2Proof.Machine.execTransmit s
  | .loadPreset hv fb => Sys2Proof.Machine.execLoadPreset hv fb s

end Sys2Proof.Machine
end

