-- ==== Sys2Proof/Machine/Step.lean ====
section
/-! DEFINITION. One step: the host's next event, with the whole command within it when it is a CMD write (R66, R70). -/

namespace Sys2Proof.Machine

/-- One step of the machine. -/
def step (s : State) : Host.Outcome State Fault Refusal :=
  match nextEffect s with
  | .run i t => exec i t
  | .done o => o

/-- `s` with a command word as the host's next access, a write to CMD: the next step runs it (log entry 1). -/
def State.withFetchWord (s : State) (nbits w : Nat) : State := placeCommand s nbits w

end Sys2Proof.Machine
end

