-- ==== Sys2Proof/Safety.lean ====
section
/-! DEFINITION. What counts as a safe run: the invariant of the state, and accesses that cannot fault. -/

namespace Sys2Proof.Machine

/-- The registers' reserved bits are 0 (R21-R31). -/
abbrev Block.reservedClear (b : Block) : Prop :=
  b.status &&& ~~~1 = 0 ∧ b.req &&& ~~~reqMask = 0 ∧ b.carrierKhz &&& ~~~carrierKhzMask = 0 ∧
    b.sercfg &&& ~~~sercfgMask = 0

/-- The PULSE buffer, the block's only indexed memory, in its canonical form: it has its size and holds exactly one
train. PULSE_LEN counts the entries at its front, none of which is 0, and every later entry is 0 (R31, R33, R154, R157). -/
abbrev Memory.wf (b : Block) : Prop :=
  b.pulse.length = Config.pulseCap ∧ b.pulseLen.toNat ≤ Config.pulseCap ∧
    0 ∉ b.pulse.take b.pulseLen.toNat ∧
    b.pulse.drop b.pulseLen.toNat = List.replicate (Config.pulseCap - b.pulseLen.toNat) 0

/-- A carrier in Hz that SERIALIZE can write: a multiple of 1000, at most 65,535,000 (R158). -/
abbrev carrierPossible (hz : Word) : Prop := hz.toNat % 1000 = 0 ∧ hz.toNat ≤ 65535000

/-- A block state that the spec's rules allow. -/
abbrev Block.wf (b : Block) : Prop := b.reservedClear ∧ Memory.wf b ∧ carrierPossible b.carrierHz

/-- A transaction that the block can have emitted: no zero duration, no more than PULSE_CAP entries, a possible carrier. -/
abbrev Transaction.wf (t : Transaction) : Prop :=
  0 ∉ t.seq ∧ t.seq.length ≤ Config.pulseCap ∧ carrierPossible t.hz

/-- The invariant of the machine. -/
abbrev State.Inv (s : State) : Prop := s.block.wf ∧ ∀ t ∈ s.sink, t.wf

/-- An event that cannot end a step with a fault: any but an access of a wrong width or alignment (R61, R62). -/
def HostEvent.safe (p : HostParams) (e : HostEvent) : Bool :=
  match e.input p with
  | .access a => a.legal
  | .reset => true
  | .nothing => true

/-- Every access the host has queued is legal. -/
def State.safeQueue (s : State) : Bool := s.host.queue.all (HostEvent.safe s.host.params)

/-- The state after a step that goes on. -/
def nextState : Host.Outcome State Fault Refusal → Option State
  | .next t => some t
  | .fault _ => none
  | .refused _ => none

end Sys2Proof.Machine
end

