-- ==== Sys2Proof/Certificates/Slice0/Obligations.lean ====
section
/-! DEFINITION. The statements for the provers, one `Obligations.<Name>` each, in the order of the spec's files. -/

open Sys2Proof Sys2Proof.Machine

/-! ## Reset and the register map -/

/-- R261: the reset value of every piece of state, host-side records (R204) included. -/
def Obligations.ResetGivesEveryStatedValue : Prop :=
  readOffset State.reset.block 0x000 = 0 ∧ State.reset.block.status = 0 ∧
  State.reset.block.req = 0x180020C0 ∧ State.reset.block.carrierKhz = 0 ∧
  State.reset.block.hdr = 0 ∧ State.reset.block.one = 0 ∧ State.reset.block.zero = 0 ∧
  State.reset.block.sercfg = 0 ∧
  State.reset.block.word.w0 = 0 ∧ State.reset.block.word.w1 = 0 ∧
  State.reset.block.word.w2 = 0 ∧ State.reset.block.word.w3 = 0 ∧
  State.reset.block.pulse = List.replicate 258 0 ∧ State.reset.block.pulseLen = 0 ∧
  State.reset.block.carrierHz = 0 ∧ State.reset.sink = [] ∧
  State.reset.host.climate =
    ⟨false, .known .cool, .celsius 24, .known .auto, .known .off, false, false, false⟩ ∧
  State.reset.host.lkg = ⟨.known .cool, .celsius 24, .known .auto, .known .off⟩

/-- R260: a reset at any point puts the whole block into its reset state, empties the sink history and emits nothing.
That the host's records and its queue stay is the model's reading (log entry 6). -/
def Obligations.ResetEventResetsBlockAndSink : Prop :=
  ∀ (s : State) (rest : List HostEvent),
    step (s.withQueue (.reset :: rest)) =
      .next { block := State.reset.block, sink := [], host := { s.host with queue := rest } }

/-- R262: SERIALIZE, TRANSMIT and ENCODE straight after reset. -/
def Obligations.CommandsStraightAfterReset : Prop :=
  (∃ t, exec .serialize State.reset = .next t ∧ t.block.pulseLen = 0 ∧ t.block.carrierHz = 0) ∧
  (∃ t, exec .transmit State.reset = .next t ∧ t.sink = [⟨0, []⟩]) ∧
  (∃ t, exec .encode State.reset = .next t ∧
    t.block.word = ⟨0x00E083C3, 0x002000A0, 0x05000000, 0x000000EB⟩)

/-- The read values of R21's map: each register at its offset, the PULSE window two entries a word, 0 everywhere else. -/
def Obligations.RegisterMapReadValues : Prop :=
  ∀ b : Block,
    readOffset b 0x000 = 0 ∧ readOffset b 0x004 = b.status ∧ readOffset b 0x008 = b.req ∧
    readOffset b 0x00C = b.carrierKhz ∧ readOffset b 0x010 = b.hdr ∧ readOffset b 0x014 = b.one ∧
    readOffset b 0x018 = b.zero ∧ readOffset b 0x01C = b.sercfg ∧
    readOffset b 0x020 = b.word.w0 ∧ readOffset b 0x024 = b.word.w1 ∧
    readOffset b 0x028 = b.word.w2 ∧ readOffset b 0x02C = b.word.w3 ∧
    readOffset b 0x030 = b.pulseLen ∧ readOffset b 0x034 = b.carrierHz ∧
    (∀ k : Fin 129, readOffset b (BitVec.ofNat 12 (0x100 + 4 * k)) =
      BitVec.ofNat 32 (65536 * (b.pulse.getD (2 * k + 1) 0).toNat + (b.pulse.getD (2 * k) 0).toNat)) ∧
    (∀ a : Offset, a.toNat % 4 = 0 →
      (0x038 ≤ a.toNat ∧ a.toNat < 0x100) ∨ 0x304 ≤ a.toNat → readOffset b a = 0)

/-! ## The bus -/

/-- R63, R67: a legal read answers the register's value and has no side effect. -/
def Obligations.LegalReadAnswersAndChangesNothing : Prop :=
  ∀ (s : State) (rest : List HostEvent) (a : Offset), a.toNat % 4 = 0 →
    step (s.withQueue (.access (.read a 4) :: rest)) =
      .next { s with host := { s.host with
        queue := rest, log := s.host.log ++ [.value (readOffset s.block a)] } }

/-- R63 on a RW register: its writable bits are stored and read back with the reserved bits 0, every other offset reads as
before, and nothing else of the machine changes but the host's queue and log. -/
def Obligations.WriteReadsBackUnderItsMask : Prop :=
  ∀ (s : State) (rest : List HostEvent) (v : Word) (a : Offset) (mask : Word),
    (a, mask) ∈ ([(0x008, 0xFFFF3FFF), (0x00C, 0x0000FFFF), (0x010, 0xFFFFFFFF), (0x014, 0xFFFFFFFF),
      (0x018, 0xFFFFFFFF), (0x01C, 0x0001FFFF), (0x020, 0xFFFFFFFF), (0x024, 0xFFFFFFFF),
      (0x028, 0xFFFFFFFF), (0x02C, 0xFFFFFFFF)] : List (Offset × Word)) →
    ∃ t, step (s.withQueue (.access (.write a 4 v) :: rest)) = .next t ∧
      readOffset t.block a = v &&& mask ∧
      (∀ c : Offset, c.toNat % 4 = 0 → c ≠ a → readOffset t.block c = readOffset s.block c) ∧
      t.block.pulse = s.block.pulse ∧ t.sink = s.sink ∧
      t.host = { s.host with queue := rest, log := s.host.log ++ [.written] }

/-- R23: a write to STATUS clears ILL exactly when bit 0 of the datum is 1; nothing else of the block changes. -/
def Obligations.StatusIsWriteOneToClear : Prop :=
  ∀ (s : State) (rest : List HostEvent) (v : Word),
    ∃ t, step (s.withQueue (.access (.write 0x004 4 v) :: rest)) = .next t ∧
      t.block.status.getLsbD 0 = (s.block.status.getLsbD 0 && !v.getLsbD 0) ∧
      (∀ i, 1 ≤ i → t.block.status.getLsbD i = s.block.status.getLsbD i) ∧
      { t.block with status := s.block.status } = s.block ∧ t.sink = s.sink ∧
      t.host = { s.host with queue := rest, log := s.host.log ++ [.written] }

/-- R234: an aligned 32-bit write to a read-only register (PULSE_LEN 0x030, CARRIER_HZ 0x034, the window 0x100-0x300) or to a
reserved offset is ignored; a read of a reserved offset answers 0; neither is a BusError. -/
def Obligations.ReadOnlyAndReservedWritesIgnored : Prop :=
  ∀ (s : State) (rest : List HostEvent) (a : Offset), a.toNat % 4 = 0 → 0x030 ≤ a.toNat →
    (∀ v : Word, step (s.withQueue (.access (.write a 4 v) :: rest)) =
      .next { s with host := { s.host with queue := rest, log := s.host.log ++ [.written] } }) ∧
    ((0x038 ≤ a.toNat ∧ a.toNat < 0x100) ∨ 0x304 ≤ a.toNat →
      step (s.withQueue (.access (.read a 4) :: rest)) =
        .next { s with host := { s.host with queue := rest, log := s.host.log ++ [.value 0] } })

/-- R61, R62, R233: an access of a wrong width or alignment is BusError(addr, n). The block and the sink keep everything;
the host's step faults, or the host is told and goes on, as its platform has it. That the platform's choice is one of these
two is the model's reading (log entry 3). -/
def Obligations.WrongAccessIsBusError : Prop :=
  ∀ (s : State) (rest : List HostEvent) (a : Access), (a.width ≠ 4 ∨ a.addr.toNat % 4 ≠ 0) →
    (s.host.params.busErrorResponse = .abort →
      step (s.withQueue (.access a :: rest)) = .fault (.busError a.addr a.width)) ∧
    (s.host.params.busErrorResponse = .report →
      step (s.withQueue (.access a :: rest)) =
        .next { s with host := { s.host with
          queue := rest, log := s.host.log ++ [.busError a.addr a.width] } })

/-- R72: every legal access completes. That exactly one answer is appended to the host's log, for a CMD write of an illegal
word too, is the model's choice (log entry 2). -/
def Obligations.EveryLegalAccessCompletes : Prop :=
  ∀ (s : State) (rest : List HostEvent) (a : Access), a.width = 4 → a.addr.toNat % 4 = 0 →
    ∃ t x, step (s.withQueue (.access a :: rest)) = .next t ∧
      t.host = { s.host with queue := rest, log := s.host.log ++ [x] } ∧
      (x = .written ∨ ∃ v, x = .value v)

/-- R230, R235: a step stops only on an access of a wrong width or alignment, with the fault that names it; it is never
refused. That it stops only on a platform whose response is `abort` is the model's choice (log entry 3). -/
def Obligations.OnlyWrongAccessStopsAStep : Prop :=
  ∀ s : State, (∀ r, step s ≠ .refused r) ∧
    ∀ f, step s = .fault f →
      ∃ e rest a, s.host.queue = e :: rest ∧ e.input s.host.params = .access a ∧
        (a.width ≠ 4 ∨ a.addr.toNat % 4 ≠ 0) ∧ f = .busError a.addr a.width ∧ s.host.params.busErrorResponse = .abort

/-- R72: from a queue whose accesses are all legal a step goes on, and the queue it leaves is again such a queue, climate
requests expanded. -/
def Obligations.SafeQueueNeverFaults : Prop :=
  ∀ s : State, s.safeQueue = true → ∃ t, step s = .next t ∧ t.safeQueue = true

/-- R88: a wait is observed by nothing in the block, the sink or the host's records. -/
def Obligations.WaitIsUnobserved : Prop :=
  ∀ (s : State) (rest : List HostEvent) (d : Nat),
    step (s.withQueue (.wait d :: rest)) = .next { s with host := { s.host with queue := rest } }

/-- R6's BASE and R60: an access at a host address inside the window is the access at its offset, for every base; one outside
the window reaches nothing of this machine. That the host's log then holds no answer is the model's choice (log entry 9). -/
def Obligations.HostAddressReachesItsOffset : Prop :=
  ∀ (s : State) (rest : List HostEvent) (n : Nat) (v : Word),
    let p := s.host.params
    (∀ a : Offset,
      step (s.withQueue (.busRead (p.base + a.toNat) n :: rest)) = step (s.withQueue (.access (.read a n) :: rest)) ∧
      step (s.withQueue (.busWrite (p.base + a.toNat) n v :: rest)) =
        step (s.withQueue (.access (.write a n v) :: rest))) ∧
    (∀ addr, addr < p.base ∨ p.base + 4096 ≤ addr →
      step (s.withQueue (.busRead addr n :: rest)) = .next (s.withQueue rest) ∧
      step (s.withQueue (.busWrite addr n v :: rest)) = .next (s.withQueue rest))

/-- R6's RESET_SOURCE and BUS_ORDERED: a platform event resets the block exactly when it is a reset source (R260); on a bus
that keeps issue order no event overtakes another (R70). That an overtaking on another bus reorders bus events and waits
alone, and changes nothing but their order, is the model's choice (log entry 8). -/
def Obligations.ResetSourcesAndBusOrder : Prop :=
  ∀ (s : State) (rest : List HostEvent) (k : Nat),
    let p := s.host.params
    (k ∈ p.resetSources →
      step (s.withQueue (.platform k :: rest)) = .next ⟨State.reset.block, [], { s.host with queue := rest }⟩) ∧
    (k ∉ p.resetSources → step (s.withQueue (.platform k :: rest)) = .next (s.withQueue rest)) ∧
    (p.busOrdered = true → step (s.withQueue (.overtake k :: rest)) = .next (s.withQueue rest)) ∧
    (p.busOrdered = false → ∃ q, step (s.withQueue (.overtake k :: rest)) = .next (s.withQueue q) ∧ q.Perm rest ∧
      q.filter (!·.reorderable) = rest.filter (!·.reorderable) ∧
      ∀ e, rest[k]? = some e → (rest.take (k + 1)).all HostEvent.reorderable = true → q = e :: rest.eraseIdx k)

/-! ## Command words -/

/-- R81, R82, R84: the eight legal words and their commands; every other word is illegal. -/
def Obligations.EightLegalWordsAndNoOther : Prop :=
  decode 0x00000000 = .instr .nop ∧ decode 0x00000001 = .instr .encode ∧
  decode 0x00000002 = .instr .serialize ∧ decode 0x00000003 = .instr .transmit ∧
  decode 0x00000004 = .instr (.loadPreset .h8950 .bits104) ∧
  decode 0x00000104 = .instr (.loadPreset .h9000 .bits104) ∧
  decode 0x00000204 = .instr (.loadPreset .h8950 .bits105) ∧
  decode 0x00000304 = .instr (.loadPreset .h9000 .bits105) ∧
  ∀ v : Word, v ∉ ([0x00000000, 0x00000001, 0x00000002, 0x00000003, 0x00000004, 0x00000104, 0x00000204,
    0x00000304] : List Word) → ∃ g, decode v = .illegal g

/-- Decoding and encoding agree both ways: a word decodes to a command exactly when it is that command's word. -/
def Obligations.DecodeInvertsEncode : Prop :=
  ∀ (v : Word) (i : Instr), decode v = .instr i ↔ v = encode i

/-- Sanity: words written out from R80-R84 decode to the commands they stand for. -/
def Obligations.WrittenOutWordsDecode : Prop :=
  decode 0b0000000000000000000000_0_0_00000011 = .instr .transmit ∧
  decode 0b0000000000000000000000_0_1_00000100 = .instr (.loadPreset .h9000 .bits104) ∧
  decode 0b0000000000000000000000_1_0_00000100 = .instr (.loadPreset .h8950 .bits105) ∧
  decode 0b0000000000000000000001_0_0_00000100 = .illegal .reservedBitsInP

/-- A step runs the decoded command: a CMD write of a word that decodes to `i` is `exec i` at the state with the event
taken and the write's completion noted in the host's log, which is all that the step adds. -/
def Obligations.StepRunsTheWrittenCommand : Prop :=
  ∀ (s : State) (rest : List HostEvent) (v : Word) (i : Instr), decode v = .instr i →
    step (s.withQueue (.access (.write 0x000 4 v) :: rest)) =
      exec i { s with host := { s.host with queue := rest, log := s.host.log ++ [.written] } }

/-- R86: a word of any of the three illegal groups sets STATUS.ILL and changes no other state. Taking the event from the
queue and noting an answer in the log is the model's own record of the access (log entries 1 and 2). -/
def Obligations.IllegalWordOnlySetsIll : Prop :=
  ∀ (s : State) (rest : List HostEvent) (v : Word),
    (5 ≤ v.toNat % 256 ∨ (v.toNat % 256 ≤ 3 ∧ v.toNat / 256 ≠ 0) ∨
      (v.toNat % 256 = 4 ∧ v.toNat / 1024 ≠ 0)) →
    ∃ t, step (s.withQueue (.access (.write 0x000 4 v) :: rest)) = .next t ∧
      t.block.status.getLsbD 0 = true ∧
      (∀ i, 1 ≤ i → t.block.status.getLsbD i = s.block.status.getLsbD i) ∧
      { t.block with status := s.block.status } = s.block ∧ t.sink = s.sink ∧
      t.host.climate = s.host.climate ∧ t.host.lkg = s.host.lkg ∧ t.host.params = s.host.params ∧ t.host.queue = rest

/-- Every command completes in every state; none writes STATUS or REQ or the host's part (R232 and the command rules). -/
def Obligations.EveryCommandCompletes : Prop :=
  ∀ (i : Instr) (s : State), ∃ t, exec i s = .next t ∧
    t.block.status = s.block.status ∧ t.block.req = s.block.req ∧ t.host = s.host

/-- R180: 0x00000000 is NOP, 0x00000100 is not; NOP leaves every register, the buffers, the sink history and the host as
they are. -/
def Obligations.NopChangesNothing : Prop :=
  decode 0x00000000 = .instr .nop ∧ (∀ i, decode 0x00000100 ≠ .instr i) ∧ ∀ s : State, exec .nop s = .next s

/-! ## ENCODE -/

/-- W0 from REQ (R101-R106): the half-degree bit, the left-right byte, the temperature and vane byte, 0xC3. -/
def Obligations.EncodeWordZero : Prop :=
  ∀ s : State,
    let r := s.block.req
    let asked : Int := if r.getLsbD 13 then (r.extractLsb' 16 16).toInt else 24 * 256
    let temp : Int := max (16 * 256) (min (30 * 256) asked)
    let vane : Nat := if (r.toNat / 64) % 8 = 7 then 3 else (r.toNat / 64) % 8
    ∃ t, exec .encode s = .next t ∧
      (t.block.word.w0.toNat : Int) =
        (if 128 ≤ temp % 256 then 0x80 * 2 ^ 24 else 0) + (if r.getLsbD 9 then 0 else 0xE0 * 2 ^ 16) +
          (8 * (temp / 256) - 57 + vane - 7) * 2 ^ 8 + 0xC3

/-- W1 from REQ (R101, R107, R108): the mode selector with the health and sleep bits in b1, the fan selector in b3. -/
def Obligations.EncodeWordOne : Prop :=
  ∀ s : State,
    let r := s.block.req
    let mode := (r.toNat / 2) % 8
    let fan := (r.toNat / 16) % 4
    let selector := if mode = 1 then 0x80 else if mode = 2 then 0x40 else if mode = 3 then 0xC0
      else if mode = 4 then 0x00 else 0x20
    let fanByte := if fan = 0 then 0xA0 else if fan = 1 then 0x60 else if fan = 2 then 0x40 else 0x20
    ∃ t, exec .encode s = .next t ∧
      t.block.word.w1.toNat =
        (selector + (if r.getLsbD 10 then 0x10 else 0) + (if r.getLsbD 11 then 0x04 else 0)) * 2 ^ 16 + fanByte

/-- R109: with power off W2 is 0x05000000, whatever mode, health and timer say. -/
def Obligations.EncodeWordTwoPowerOff : Prop :=
  ∀ s : State, s.block.req.getLsbD 0 = false →
    ∃ t, exec .encode s = .next t ∧ t.block.word.w2 = 0x05000000

/-- R110: W2 with power on; an unmapped mode code counts as Cool. -/
def Obligations.EncodeWordTwoPowerOn : Prop :=
  ∀ s : State, s.block.req.getLsbD 0 = true →
    let r := s.block.req
    let mode := (r.toNat / 2) % 8
    let b0 := if 2 ≤ mode ∧ mode ≤ 4 then 0x06 else 0x02
    let b2 := if mode = 1 ∧ r.getLsbD 12 then 0x60
      else (if mode = 1 then 0x30 else 0x20) + (if r.getLsbD 10 then 0x02 else 0x00)
    ∃ t, exec .encode s = .next t ∧ t.block.word.w2.toNat = b0 * 2 ^ 24 + b2 * 2 ^ 8

/-- R111: the checksum is the sum of the twelve bytes of W0, W1 and W2 mod 256, and WORD[3] holds it zero-extended. -/
def Obligations.EncodeChecksum : Prop :=
  ∀ s : State, ∃ t, exec .encode s = .next t ∧
    let w := t.block.word
    t.block.word.w3.toNat =
      (([w.w0, w.w1, w.w2].map fun x =>
        x.toNat / 2 ^ 24 + (x.toNat / 2 ^ 16) % 256 + (x.toNat / 2 ^ 8) % 256 + x.toNat % 256).sum) % 256

/-- R112: ENCODE is a function of REQ alone and writes nothing but WORD: what it writes is `encodeFrame` of REQ, everything
else stays, and a second ENCODE leaves the same state. -/
def Obligations.EncodeDependsOnReqAlone : Prop :=
  ∀ s : State, ∃ t, exec .encode s = .next t ∧ t.block.word = encodeFrame s.block.req ∧
    { t.block with word := s.block.word } = s.block ∧ t.sink = s.sink ∧ t.host = s.host ∧
    exec .encode t = .next t

/-- R102: an absent temperature encodes as 24.0, one below 16.0 as 16.0 and one above 30.0 as 30.0, whatever the rest of
REQ holds. `encodeFrame` is what ENCODE puts into WORD (EncodeDependsOnReqAlone). -/
def Obligations.OutOfRangeTemperaturesNormalise : Prop :=
  ∀ f : ReqFields,
    encodeFrame { f with tvalid := false }.value = encodeFrame { f with tvalid := true, temp := 0x1800 }.value ∧
    (f.temp.toInt < 16 * 256 → encodeFrame { f with tvalid := true }.value =
      encodeFrame { f with tvalid := true, temp := 0x1000 }.value) ∧
    (30 * 256 < f.temp.toInt → encodeFrame { f with tvalid := true }.value =
      encodeFrame { f with tvalid := true, temp := 0x1E00 }.value)

/-- R101: the unmapped mode codes 5-7 encode as Cool and the unmapped vane code 7 as the fixed middle 3. `encodeFrame` is
what ENCODE puts into WORD (EncodeDependsOnReqAlone). -/
def Obligations.UnmappedCodesEncodeAsDefaults : Prop :=
  ∀ f : ReqFields,
    (5 ≤ f.mode.toNat → encodeFrame f.value = encodeFrame { f with mode := 0 }.value) ∧
    encodeFrame { f with vane := 7 }.value = encodeFrame { f with vane := 3 }.value

/-- R113: REQ.POWER reaches W2 alone; W0 and W1 are the same with power on and off. -/
def Obligations.PowerReachesOnlyWordTwo : Prop :=
  ∀ (s : State) (r : Word), ∃ t u,
    exec .encode (s.withBlock { s.block with req := r }) = .next t ∧
    exec .encode (s.withBlock { s.block with req := r ^^^ 1 }) = .next u ∧
    t.block.word.w0 = u.block.word.w0 ∧ t.block.word.w1 = u.block.word.w1 ∧
    t.block.word.w2 ≠ u.block.word.w2

/-- R114: the bits that ENCODE always writes as 0, W2.b0 by the power bit of REQ. -/
def Obligations.EncodeWritesItsZeroBits : Prop :=
  ∀ s : State, ∃ t, exec .encode s = .next t ∧
    t.block.word.w0 &&& 0x7F1F0000 = 0 ∧ t.block.word.w1 &&& 0xFF0BFF1F = 0 ∧
    t.block.word.w2 &&& 0x00FF8DFF = 0 ∧
    (s.block.req.getLsbD 0 = true → t.block.word.w2 &&& 0xF9000000 = 0) ∧
    (s.block.req.getLsbD 0 = false → t.block.word.w2 &&& 0xFA000000 = 0) ∧
    t.block.word.w3 &&& 0xFFFFFF00 = 0

/-- R105: the temperature byte holds the degrees less 8 above the vane state; it stays in 64..182 and its vane code is
never 7. -/
def Obligations.TemperatureByteHoldsDegreesAndVane : Prop :=
  ∀ s : State, ∃ t, exec .encode s = .next t ∧
    let b2 := (t.block.word.w0.toNat / 2 ^ 8) % 256
    let f := reqFields s.block.req
    64 ≤ b2 ∧ b2 ≤ 182 ∧ b2 % 8 ≠ 7 ∧ b2 % 8 = (normaliseVane f.vane).toNat ∧
    ((b2 / 8 : Nat) : Int) = fullDeg (normaliseTemp f.tvalid f.temp) - 8

/-- A frame determines its request: equal words come only from equal power, mode, fan, vane, sweep, health, sleep, whole
degrees and half degree, as normalised. (The timer is left out: it is in the frame only in Heat with power on, R110.) -/
def Obligations.FrameDeterminesTheRequest : Prop :=
  ∀ q r : Word, encodeFrame q = encodeFrame r →
    let a := normaliseEnums (reqFields q)
    let b := normaliseEnums (reqFields r)
    let t := normaliseTemp (reqFields q).tvalid (reqFields q).temp
    let u := normaliseTemp (reqFields r).tvalid (reqFields r).temp
    a.power = b.power ∧ a.mode = b.mode ∧ a.fan = b.fan ∧ a.vane = b.vane ∧ a.lr = b.lr ∧
      a.health = b.health ∧ a.sleep = b.sleep ∧ fullDeg t = fullDeg u ∧ halfDeg t = halfDeg u

/-! ## SERIALIZE -/

/-- R150, R152-R154, R157: the header pair and a pair per bit up to the cap, in the chosen bit order, zero durations dropped,
then zeros to the end of the buffer; PULSE_LEN counts the entries kept. -/
def Obligations.SerializeBuildsTheTrain : Prop :=
  ∀ s : State,
    let b := s.block
    let n := min (b.sercfg.toNat % 2 ^ 16) 128
    let words := [b.word.w0, b.word.w1, b.word.w2, b.word.w3]
    let bit (i : Nat) : Bool :=
      (words.getD (i / 32) 0).getLsbD (if b.sercfg.getLsbD 16 then 31 - i % 32 else i % 32)
    let pair (w : Word) : List Duration := [BitVec.ofNat 16 (w.toNat % 2 ^ 16), BitVec.ofNat 16 (w.toNat / 2 ^ 16)]
    let raw := pair b.hdr ++ ((List.range n).map fun i => if bit i then pair b.one else pair b.zero).flatten
    let p := raw.filter (· ≠ 0)
    ∃ t, exec .serialize s = .next t ∧ t.block.pulse.length = 258 ∧ p.length ≤ 258 ∧
      t.block.pulseLen.toNat = p.length ∧
      ∀ k, t.block.pulse.getD k 0 = if k < p.length then p.getD k 0 else 0

/-- R158: CARRIER_HZ becomes the kHz field times 1000, with no wrap. -/
def Obligations.SerializeConvertsTheCarrier : Prop :=
  ∀ s : State, ∃ t, exec .serialize s = .next t ∧
    t.block.carrierHz.toNat = (s.block.carrierKhz.toNat % 2 ^ 16) * 1000 ∧ t.block.carrierHz.toNat ≤ 65535000

/-- R160: SERIALIZE writes only PULSE, PULSE_LEN and CARRIER_HZ, and a second one leaves the same state. -/
def Obligations.SerializeFrameAndIdempotence : Prop :=
  ∀ s : State, ∃ t, exec .serialize s = .next t ∧
    { t.block with pulse := s.block.pulse, pulseLen := s.block.pulseLen, carrierHz := s.block.carrierHz } = s.block ∧
    t.sink = s.sink ∧ t.host = s.host ∧ exec .serialize t = .next t

/-- R159: PULSE_LEN is `2 + 2n` less the zero entries of the raw train; it is `2 + 2n` exactly when no used timing is 0. -/
def Obligations.TrainLengthCountsZeros : Prop :=
  ∀ s : State,
    let b := s.block
    let n := min (b.sercfg.toNat % 2 ^ 16) 128
    let used (w : Word) : Prop := markOf w ≠ 0 ∧ spaceOf w ≠ 0
    ∃ t, exec .serialize s = .next t ∧
      t.block.pulseLen.toNat + (rawTrain b).count 0 = 2 + 2 * n ∧
      (t.block.pulseLen.toNat = 2 + 2 * n ↔
        used b.hdr ∧
        ((∃ i < n, dataBit (b.sercfg.getLsbD 16) b.word i = true) → used b.one) ∧
        ((∃ i < n, dataBit (b.sercfg.getLsbD 16) b.word i = false) → used b.zero))

/-- R153 with no zero timing: the header stands at entries 0 and 1, and the pair of bit `i` at entries `2+2i` and `3+2i`. -/
def Obligations.PairOfEachBitAtItsPlace : Prop :=
  ∀ s : State, (∀ w ∈ [s.block.hdr, s.block.one, s.block.zero], markOf w ≠ 0 ∧ spaceOf w ≠ 0) →
    ∃ t, exec .serialize s = .next t ∧
      t.block.pulseAt 0 = markOf s.block.hdr ∧ t.block.pulseAt 1 = spaceOf s.block.hdr ∧
      ∀ i, i < min (s.block.sercfg.toNat % 2 ^ 16) 128 →
        let w := [s.block.word.w0, s.block.word.w1, s.block.word.w2, s.block.word.w3].getD (i / 32) 0
        let bit := w.getLsbD (if s.block.sercfg.getLsbD 16 then 31 - i % 32 else i % 32)
        let timing := if bit then s.block.one else s.block.zero
        t.block.pulseAt (2 + 2 * i) = markOf timing ∧ t.block.pulseAt (3 + 2 * i) = spaceOf timing

/-- R152: every bit count above the cap gives what the cap gives. -/
def Obligations.BitCountIsCappedSilently : Prop :=
  ∀ (s : State) (count : BitVec 16) (msb : Bool), 128 ≤ count.toNat →
    ∃ t u, exec .serialize (s.withBlock { s.block with sercfg := sercfgWord count msb }) = .next t ∧
      exec .serialize (s.withBlock { s.block with sercfg := sercfgWord 128 msb }) = .next u ∧
      t.block.pulse = u.block.pulse ∧ t.block.pulseLen = u.block.pulseLen ∧
      t.block.carrierHz = u.block.carrierHz ∧ t.block.status = s.block.status

/-- R156: with LSB_FIRST an ENCODE frame goes out W0.b3, W0.b2, W0.b1, W0.b0, then W1 and W2 alike, then the checksum, each
byte from its bit 0: bit `8*j + k` of the wire is bit `k` of byte `j` of that order. -/
def Obligations.FrameBytesInWireOrder : Prop :=
  ∀ s : State, ∃ t, exec .encode s = .next t ∧
    let w := t.block.word
    ∀ j < 13, ∀ k < 8,
      dataBit false w (8 * j + k) =
        (((wordBytes w.w0).reverse ++ (wordBytes w.w1).reverse ++ (wordBytes w.w2).reverse ++
          [checksum w.w0 w.w1 w.w2]).getD j 0).getLsbD k

/-- R161, R162: of an ENCODE frame, MSB_FIRST reads 0 for bits 96 to 103, so the checksum is not sent, and LSB_FIRST
reads 0 for bit 104, the extra bit of the 105-bit variant. -/
def Obligations.FrameBitsBeyondTheChecksum : Prop :=
  ∀ s : State, ∃ t, exec .encode s = .next t ∧
    (∀ i, 96 ≤ i → i < 104 → dataBit true t.block.word i = false) ∧ dataBit false t.block.word 104 = false

/-- R271: the wire time of a 104-bit LSB_FIRST frame under a preset, in microseconds, by the number of its 1 bits. -/
def Obligations.WireTimeOfAFrame : Prop :=
  ∀ (s : State) (hv : HeaderVariant), ∃ t u, exec (.loadPreset hv .bits104) s = .next t ∧
    exec .serialize t = .next u ∧
    ((u.block.pulse.take u.block.pulseLen.toNat).map BitVec.toNat).sum =
      (match hv with | .h8950 => 13400 | .h9000 => 13500) + 104 * 1100 +
        1100 * ((List.range 104).countP fun i => dataBit false s.block.word i)

/-! ## TRANSMIT -/

/-- R165: 0x00000003 is TRANSMIT; it appends one transaction, the carrier and the first PULSE_LEN entries, even when that is
none, and writes no register. The premise, that the buffer holds as many entries as PULSE_LEN says, is part of the
invariant. -/
def Obligations.TransmitAppendsOneTransaction : Prop :=
  decode 0x00000003 = .instr .transmit ∧
  ∀ s : State, s.block.pulseLen.toNat ≤ s.block.pulse.length → s.block.pulseLen.toNat ≤ 258 →
    exec .transmit s = .next { s with sink := s.sink ++
      [⟨s.block.carrierHz, (List.range s.block.pulseLen.toNat).map fun k => s.block.pulse.getD k 0⟩] }

/-- R166: a second TRANSMIT with no SERIALIZE in between emits a transaction equal to the first. -/
def Obligations.SecondTransmitIsEqual : Prop :=
  ∀ s : State, ∃ t u x, exec .transmit s = .next t ∧ exec .transmit t = .next u ∧
    t.sink = s.sink ++ [x] ∧ u.sink = t.sink ++ [x] ∧ u.block = s.block

/-- R266: TRANSMIT sends the train and carrier that the last SERIALIZE computed, however CARRIER_KHZ, the timing registers,
SERCFG and WORD have changed since. -/
def Obligations.TransmitSendsTheLastSerializedTrain : Prop :=
  ∀ s t u : State, exec .serialize s = .next t → u.block.pulse = t.block.pulse →
    u.block.pulseLen = t.block.pulseLen → u.block.carrierHz = t.block.carrierHz →
    exec .transmit u = .next { u with sink := u.sink ++
      [⟨BitVec.ofNat 32 (1000 * (s.block.carrierKhz.toNat % 2 ^ 16)), (rawTrain s.block).filter (· ≠ 0)⟩] }

/-! ## LOAD_PRESET -/

/-- R182: the word of each preset, the five registers it leaves, and nothing else touched. -/
def Obligations.LoadPresetLeavesThePreset : Prop :=
  ∀ (s : State) (hv : HeaderVariant) (fb : FrameBits),
    let h : Nat := match hv with | .h8950 => 0 | .h9000 => 1
    let f : Nat := match fb with | .bits104 => 0 | .bits105 => 1
    decode (BitVec.ofNat 32 (0x00000004 + 2 ^ 8 * h + 2 ^ 9 * f)) = .instr (.loadPreset hv fb) ∧
    exec (.loadPreset hv fb) s = .next { s with block := { s.block with
      carrierKhz := 0x00000026
      hdr := match hv with | .h8950 => 0x116222F6 | .h9000 => 0x11942328
      one := 0x06720226
      zero := 0x02260226
      sercfg := match fb with | .bits104 => 0x00000068 | .bits105 => 0x00000069 } }

/-- R184: LOAD_PRESET is idempotent. -/
def Obligations.LoadPresetIsIdempotent : Prop :=
  ∀ (s : State) (hv : HeaderVariant) (fb : FrameBits),
    ∃ t, exec (.loadPreset hv fb) s = .next t ∧ exec (.loadPreset hv fb) t = .next t ∧ t.sink = s.sink

/-! ## The whole machine -/

/-- The invariant holds at reset. -/
def Obligations.ResetMeetsTheInvariant : Prop := State.reset.Inv

/-- Every step keeps the invariant: reserved bits are 0, PULSE holds one train of non-zero durations counted by PULSE_LEN and
zeros after it, CARRIER_HZ is a multiple of 1000 up to 65,535,000, and every sink transaction is made of such a train. -/
def Obligations.StepKeepsTheInvariant : Prop :=
  ∀ s t : State, s.Inv → step s = .next t → t.Inv

/-- R23, R231: STATUS.ILL is set only by an illegal command word, and cleared only by a host write of 1 to it or by reset. -/
def Obligations.IllIsSticky : Prop :=
  ∀ s t : State, step s = .next t →
    (s.block.status.getLsbD 0 = false → t.block.status.getLsbD 0 = true →
      ∃ e v g rest, s.host.queue = e :: rest ∧ e.input s.host.params = .access (.write 0x000 4 v) ∧
        decode v = .illegal g) ∧
    (s.block.status.getLsbD 0 = true → t.block.status.getLsbD 0 = false →
      ∃ e rest, s.host.queue = e :: rest ∧ (e.input s.host.params = .reset ∨
        ∃ v, e.input s.host.params = .access (.write 0x004 4 v) ∧ v.getLsbD 0 = true))

/-- R36: WORD changes only by ENCODE, by a host write to WORD0-WORD3, or by reset. -/
def Obligations.WordsChangeOnlyByEncodeOrWrite : Prop :=
  ∀ s t : State, step s = .next t → t.block.word ≠ s.block.word →
    ∃ e rest, s.host.queue = e :: rest ∧
      (e.input s.host.params = .reset ∨ e.input s.host.params = .access (.write 0x000 4 0x00000001) ∨
        ∃ a v, e.input s.host.params = .access (.write a 4 v) ∧ a ∈ ([0x020, 0x024, 0x028, 0x02C] : List Offset))

/-- R31-R33: PULSE, PULSE_LEN and CARRIER_HZ change only by SERIALIZE or by reset. -/
def Obligations.TrainChangesOnlyBySerialize : Prop :=
  ∀ s t : State, step s = .next t →
    (t.block.pulse ≠ s.block.pulse ∨ t.block.pulseLen ≠ s.block.pulseLen ∨ t.block.carrierHz ≠ s.block.carrierHz) →
    ∃ e rest, s.host.queue = e :: rest ∧
      (e.input s.host.params = .reset ∨ e.input s.host.params = .access (.write 0x000 4 0x00000002))

/-- The timing registers, SERCFG and CARRIER_KHZ change only by LOAD_PRESET, by a host write to the register itself, or by
reset; REQ only by a host write to it or by reset. -/
def Obligations.ConfigurationChangesOnlyByItsWriters : Prop :=
  ∀ s t : State, step s = .next t → ∀ e rest, s.host.queue = e :: rest → e.input s.host.params ≠ .reset →
    let writes (a : Offset) : Prop := ∃ v, e.input s.host.params = .access (.write a 4 v)
    (t.block.req ≠ s.block.req → writes 0x008) ∧
    ((∀ hv fb, e.input s.host.params ≠ .access (.write 0x000 4 (encode (.loadPreset hv fb)))) →
      (t.block.carrierKhz ≠ s.block.carrierKhz → writes 0x00C) ∧
      (t.block.hdr ≠ s.block.hdr → writes 0x010) ∧
      (t.block.one ≠ s.block.one → writes 0x014) ∧
      (t.block.zero ≠ s.block.zero → writes 0x018) ∧
      (t.block.sercfg ≠ s.block.sercfg → writes 0x01C))

/-- R34: the sink history grows only by TRANSMIT, one transaction at a time at its end, and shrinks only by reset. -/
def Obligations.SinkGrowsOnlyByTransmit : Prop :=
  ∀ s t : State, step s = .next t → t.sink ≠ s.sink →
    ∃ e rest, s.host.queue = e :: rest ∧
      ((e.input s.host.params = .reset ∧ t.sink = []) ∨
        (e.input s.host.params = .access (.write 0x000 4 0x00000003) ∧
          ∃ q, t.sink = s.sink ++ [⟨s.block.carrierHz, q⟩]))

/-! ## The host's contract -/

/-- R202, R203: one climate request merges field by field and snapshots LKG when power is on; the effective state of the new
records is S when power is on, else S with the four fields of LKG; neither the block nor the sink is touched. -/
def Obligations.RequestMergesAndSnapshots : Prop :=
  ∀ (s : State) (rest : List HostEvent) (r : ControlRequest),
    let c : Climate :=
      ⟨r.powerOn.getD s.host.climate.powerOn, r.mode.getD s.host.climate.mode,
        r.temperature.getD s.host.climate.temperature, r.fan.getD s.host.climate.fan,
        r.swing.getD s.host.climate.swing, r.health.getD s.host.climate.health,
        r.sleep.getD s.host.climate.sleep, r.timerOn.getD s.host.climate.timerOn⟩
    ∃ t, step (s.withQueue (.control r :: rest)) = .next t ∧ t.block = s.block ∧ t.sink = s.sink ∧
      t.host.climate = c ∧ t.host.params = s.host.params ∧
      (c.powerOn = true → t.host.lkg = ⟨c.mode, c.temperature, c.fan, c.swing⟩) ∧
      (c.powerOn = false → t.host.lkg = s.host.lkg) ∧
      (c.powerOn = true → effective t.host.climate t.host.lkg = c) ∧
      (c.powerOn = false → effective t.host.climate t.host.lkg =
        ⟨false, s.host.lkg.mode, s.host.lkg.temperature, s.host.lkg.fan, s.host.lkg.swing, c.health, c.sleep, c.timerOn⟩)

/-- R203 and R205's effective state, R208, R209, R211: the request puts the sequence REQ, ENCODE, LOAD_PRESET, SERIALIZE,
TRANSMIT (and the re-transmission) ahead of the rest, with REQ built from the effective state; with no sink there is no
TRANSMIT, and the host's own diagnostic. That the sequence stands ahead of the rest, and the diagnostic's form, are the
model's (log entries 11, 12). -/
def Obligations.RequestIssuesItsCommandSequence : Prop :=
  ∀ (s : State) (rest : List HostEvent) (r : ControlRequest),
    let c := merge r s.host.climate
    let l := s.host.lkg
    let e : Climate :=
      if c.powerOn then c
      else ⟨false, l.mode, l.temperature, l.fan, l.swing, c.health, c.sleep, c.timerOn⟩
    let p := s.host.params
    let preset : Word := 4 + (if p.headerVariant = .h9000 then 256 else 0) + (if p.frameBits = .bits105 then 512 else 0)
    let transmit : HostEvent := .access (.write 0x000 4 3)
    ∃ t, step (s.withQueue (.control r :: rest)) = .next t ∧
      t.host.queue =
        [.access (.write 0x008 4 (requestFields p.vsweepCode e).value), .access (.write 0x000 4 1),
          .access (.write 0x000 4 preset), .access (.write 0x000 4 2)] ++
        (if p.sinkAttached then
          transmit :: (match p.retransmit with | none => [] | some d => [.wait d, transmit]) else []) ++ rest ∧
      t.host.log = s.host.log ++ (if p.sinkAttached then [] else [.noSink])

/-- R206 and R207: the REQ word of an effective state, field by field at the bits of R24. A rational stands for the real
temperature (log entry 5). -/
def Obligations.RequestFieldsReachTheirBits : Prop :=
  ∀ (v : VSweepCode) (e : Climate),
    let w := (requestFields v e).value
    w.getLsbD 0 = e.powerOn ∧ w.getLsbD 10 = e.health ∧ w.getLsbD 11 = e.sleep ∧ w.getLsbD 12 = e.timerOn ∧
    w.getLsbD 14 = false ∧ w.getLsbD 15 = false ∧
    w.extractLsb' 1 3 = (match e.mode with
      | .known .cool => 0 | .known .heat => 1 | .known .dry => 2 | .known .fanOnly => 3 | .known .auto => 4
      | .unmapped => 0) ∧
    w.extractLsb' 4 2 = (match e.fan with
      | .known .auto => 0 | .known .low => 1 | .known .medium => 2 | .known .high => 3 | .unmapped => 0) ∧
    (w.extractLsb' 6 3, w.getLsbD 9) = (match e.swing with
      | .known .off => (3, false) | .known .vertical => ((match v with | .zero => 0 | .six => 6), false)
      | .known .horizontal => (3, true) | .known .both => ((match v with | .zero => 0 | .six => 6), true)
      | .unmapped => (3, false)) ∧
    (w.getLsbD 13, (w.extractLsb' 16 16).toInt) = (match e.temperature with
      | .celsius q => (true, max (-32768) (min 32767 ⌊q * 256⌋)) | .undefined => (false, 0))

/-- D6's reason for R207: on every temperature the block's floor/half split of the converted value is the split of the
temperature itself, clamped to [16, 30]. A rational stands for the real number (log entry 5). -/
def Obligations.ConversionKeepsTheHalfDegreeSplit : Prop :=
  ∀ q : Rat,
    let t := normaliseTemp true (tempOfCelsius q)
    let c : Rat := max 16 (min 30 q)
    fullDeg t = ⌊c⌋ ∧ (halfDeg t = true ↔ 1 / 2 ≤ c - ⌊c⌋)

/-- The headline of the host's contract: with a sink attached and no re-transmission, one climate request alone in the queue
runs, in six steps, to exactly one transaction, 38000 Hz with the preset's header and the effective state's frame bit by
bit, least significant first, and leaves that state's REQ and frame in the block. That it takes six steps rests on the model's
choice that LOAD_PRESET is always issued and the sequence stands in the queue (log entry 12). -/
def Obligations.RequestReachesTheSink : Prop :=
  ∀ (s : State) (r : ControlRequest), s.host.params.sinkAttached = true → s.host.params.retransmit = none →
    let c := merge r s.host.climate
    let p := s.host.params
    let value := (requestFields p.vsweepCode (effective c s.host.lkg)).value &&& 0xFFFF3FFF
    let w := encodeFrame value
    let header : List Duration := match p.headerVariant with | .h8950 => [8950, 4450] | .h9000 => [9000, 4500]
    let n := match p.frameBits with | .bits104 => 104 | .bits105 => 105
    let pair (i : Nat) : List Duration :=
      if ([w.w0, w.w1, w.w2, w.w3].getD (i / 32) 0).getLsbD (i % 32) then [550, 1650] else [550, 550]
    ∃ t, core.run 6 (s.withQueue [.control r]) = .next t ∧
      t.sink = s.sink ++ [⟨38000, header ++ (List.range n).flatMap pair⟩] ∧
      t.block.req = value ∧ t.block.word = w ∧ t.block.status = s.block.status ∧ t.host.queue = []
end

