-- ==== Sys2Proof/Laws/State.lean ====
section
/-! SUPPORT. One lemma per field per named update, so that no later proof unfolds a record update. -/

namespace Sys2Proof.Laws

open Sys2Proof.Machine

variable (s : State) (b : Block)

/-! `State.withBlock` -/

@[simp] theorem withBlock_block (c : Block) : (s.withBlock c).block = c := rfl
@[simp] theorem withBlock_sink (c : Block) : (s.withBlock c).sink = s.sink := rfl
@[simp] theorem withBlock_host_climate (c : Block) : (s.withBlock c).host.climate = s.host.climate := rfl
@[simp] theorem withBlock_host_lkg (c : Block) : (s.withBlock c).host.lkg = s.host.lkg := rfl
@[simp] theorem withBlock_host_params (c : Block) : (s.withBlock c).host.params = s.host.params := rfl
@[simp] theorem withBlock_host_queue (c : Block) : (s.withBlock c).host.queue = s.host.queue := rfl
@[simp] theorem withBlock_host_log (c : Block) : (s.withBlock c).host.log = s.host.log := rfl
@[simp] theorem withBlock_host (c : Block) : (s.withBlock c).host = s.host := rfl

/-! `State.emit` -/

@[simp] theorem emit_block (x : Transaction) : (s.emit x).block = s.block := rfl
@[simp] theorem emit_sink (x : Transaction) : (s.emit x).sink = s.sink ++ [x] := rfl
@[simp] theorem emit_host_climate (x : Transaction) : (s.emit x).host.climate = s.host.climate := rfl
@[simp] theorem emit_host_lkg (x : Transaction) : (s.emit x).host.lkg = s.host.lkg := rfl
@[simp] theorem emit_host_params (x : Transaction) : (s.emit x).host.params = s.host.params := rfl
@[simp] theorem emit_host_queue (x : Transaction) : (s.emit x).host.queue = s.host.queue := rfl
@[simp] theorem emit_host_log (x : Transaction) : (s.emit x).host.log = s.host.log := rfl
@[simp] theorem emit_host (x : Transaction) : (s.emit x).host = s.host := rfl

/-! `State.answer` -/

@[simp] theorem answer_block (a : Answer) : (s.answer a).block = s.block := rfl
@[simp] theorem answer_sink (a : Answer) : (s.answer a).sink = s.sink := rfl
@[simp] theorem answer_host_climate (a : Answer) : (s.answer a).host.climate = s.host.climate := rfl
@[simp] theorem answer_host_lkg (a : Answer) : (s.answer a).host.lkg = s.host.lkg := rfl
@[simp] theorem answer_host_params (a : Answer) : (s.answer a).host.params = s.host.params := rfl
@[simp] theorem answer_host_queue (a : Answer) : (s.answer a).host.queue = s.host.queue := rfl
@[simp] theorem answer_host_log (a : Answer) : (s.answer a).host.log = s.host.log ++ [a] := rfl

/-! `State.withQueue` -/

@[simp] theorem withQueue_block (q : List HostEvent) : (s.withQueue q).block = s.block := rfl
@[simp] theorem withQueue_sink (q : List HostEvent) : (s.withQueue q).sink = s.sink := rfl
@[simp] theorem withQueue_host_climate (q : List HostEvent) : (s.withQueue q).host.climate = s.host.climate := rfl
@[simp] theorem withQueue_host_lkg (q : List HostEvent) : (s.withQueue q).host.lkg = s.host.lkg := rfl
@[simp] theorem withQueue_host_params (q : List HostEvent) : (s.withQueue q).host.params = s.host.params := rfl
@[simp] theorem withQueue_host_queue (q : List HostEvent) : (s.withQueue q).host.queue = q := rfl
@[simp] theorem withQueue_host_log (q : List HostEvent) : (s.withQueue q).host.log = s.host.log := rfl

/-! `State.withRecords` -/

@[simp] theorem withRecords_block (c : Climate) (l : Snapshot) : (s.withRecords c l).block = s.block := rfl
@[simp] theorem withRecords_sink (c : Climate) (l : Snapshot) : (s.withRecords c l).sink = s.sink := rfl
@[simp] theorem withRecords_host_climate (c : Climate) (l : Snapshot) : (s.withRecords c l).host.climate = c := rfl
@[simp] theorem withRecords_host_lkg (c : Climate) (l : Snapshot) : (s.withRecords c l).host.lkg = l := rfl
@[simp] theorem withRecords_host_params (c : Climate) (l : Snapshot) : (s.withRecords c l).host.params = s.host.params := rfl
@[simp] theorem withRecords_host_queue (c : Climate) (l : Snapshot) : (s.withRecords c l).host.queue = s.host.queue := rfl
@[simp] theorem withRecords_host_log (c : Climate) (l : Snapshot) : (s.withRecords c l).host.log = s.host.log := rfl

/-! `raiseIllegalCommand` -/

@[simp] theorem raiseIllegalCommand_block : (raiseIllegalCommand s).block = s.block.setIll := rfl
@[simp] theorem raiseIllegalCommand_sink : (raiseIllegalCommand s).sink = s.sink := rfl
@[simp] theorem raiseIllegalCommand_host_climate : (raiseIllegalCommand s).host.climate = s.host.climate := rfl
@[simp] theorem raiseIllegalCommand_host_lkg : (raiseIllegalCommand s).host.lkg = s.host.lkg := rfl
@[simp] theorem raiseIllegalCommand_host_params : (raiseIllegalCommand s).host.params = s.host.params := rfl
@[simp] theorem raiseIllegalCommand_host_queue : (raiseIllegalCommand s).host.queue = s.host.queue := rfl
@[simp] theorem raiseIllegalCommand_host_log : (raiseIllegalCommand s).host.log = s.host.log := rfl
@[simp] theorem raiseIllegalCommand_host : (raiseIllegalCommand s).host = s.host := rfl

/-! `resetBlock` -/

@[simp] theorem resetBlock_block : (resetBlock s).block = Block.reset := rfl
@[simp] theorem resetBlock_sink : (resetBlock s).sink = [] := rfl
@[simp] theorem resetBlock_host_climate : (resetBlock s).host.climate = s.host.climate := rfl
@[simp] theorem resetBlock_host_lkg : (resetBlock s).host.lkg = s.host.lkg := rfl
@[simp] theorem resetBlock_host_params : (resetBlock s).host.params = s.host.params := rfl
@[simp] theorem resetBlock_host_queue : (resetBlock s).host.queue = s.host.queue := rfl
@[simp] theorem resetBlock_host_log : (resetBlock s).host.log = s.host.log := rfl
@[simp] theorem resetBlock_host : (resetBlock s).host = s.host := rfl

/-! `Block.setIll` -/

@[simp] theorem setIll_status : (b.setIll).status = b.status ||| 1 := rfl
@[simp] theorem setIll_req : (b.setIll).req = b.req := rfl
@[simp] theorem setIll_carrierKhz : (b.setIll).carrierKhz = b.carrierKhz := rfl
@[simp] theorem setIll_hdr : (b.setIll).hdr = b.hdr := rfl
@[simp] theorem setIll_one : (b.setIll).one = b.one := rfl
@[simp] theorem setIll_zero : (b.setIll).zero = b.zero := rfl
@[simp] theorem setIll_sercfg : (b.setIll).sercfg = b.sercfg := rfl
@[simp] theorem setIll_word : (b.setIll).word = b.word := rfl
@[simp] theorem setIll_pulseLen : (b.setIll).pulseLen = b.pulseLen := rfl
@[simp] theorem setIll_carrierHz : (b.setIll).carrierHz = b.carrierHz := rfl
@[simp] theorem setIll_pulse : (b.setIll).pulse = b.pulse := rfl

/-! `Block.writeStatus` -/

@[simp] theorem writeStatus_status (v : Word) : (b.writeStatus v).status = if v.getLsbD 0 then b.status &&& ~~~1 else b.status :=
    rfl
@[simp] theorem writeStatus_req (v : Word) : (b.writeStatus v).req = b.req := rfl
@[simp] theorem writeStatus_carrierKhz (v : Word) : (b.writeStatus v).carrierKhz = b.carrierKhz := rfl
@[simp] theorem writeStatus_hdr (v : Word) : (b.writeStatus v).hdr = b.hdr := rfl
@[simp] theorem writeStatus_one (v : Word) : (b.writeStatus v).one = b.one := rfl
@[simp] theorem writeStatus_zero (v : Word) : (b.writeStatus v).zero = b.zero := rfl
@[simp] theorem writeStatus_sercfg (v : Word) : (b.writeStatus v).sercfg = b.sercfg := rfl
@[simp] theorem writeStatus_word (v : Word) : (b.writeStatus v).word = b.word := rfl
@[simp] theorem writeStatus_pulseLen (v : Word) : (b.writeStatus v).pulseLen = b.pulseLen := rfl
@[simp] theorem writeStatus_carrierHz (v : Word) : (b.writeStatus v).carrierHz = b.carrierHz := rfl
@[simp] theorem writeStatus_pulse (v : Word) : (b.writeStatus v).pulse = b.pulse := rfl

/-! `Block.withWord` -/

@[simp] theorem withWord_status (w : WordBuf) : (b.withWord w).status = b.status := rfl
@[simp] theorem withWord_req (w : WordBuf) : (b.withWord w).req = b.req := rfl
@[simp] theorem withWord_carrierKhz (w : WordBuf) : (b.withWord w).carrierKhz = b.carrierKhz := rfl
@[simp] theorem withWord_hdr (w : WordBuf) : (b.withWord w).hdr = b.hdr := rfl
@[simp] theorem withWord_one (w : WordBuf) : (b.withWord w).one = b.one := rfl
@[simp] theorem withWord_zero (w : WordBuf) : (b.withWord w).zero = b.zero := rfl
@[simp] theorem withWord_sercfg (w : WordBuf) : (b.withWord w).sercfg = b.sercfg := rfl
@[simp] theorem withWord_word (w : WordBuf) : (b.withWord w).word = w := rfl
@[simp] theorem withWord_pulseLen (w : WordBuf) : (b.withWord w).pulseLen = b.pulseLen := rfl
@[simp] theorem withWord_carrierHz (w : WordBuf) : (b.withWord w).carrierHz = b.carrierHz := rfl
@[simp] theorem withWord_pulse (w : WordBuf) : (b.withWord w).pulse = b.pulse := rfl

/-! `Block.withTrain` -/

@[simp] theorem withTrain_status (p : List Duration) (n hz : Word) : (b.withTrain p n hz).status = b.status := rfl
@[simp] theorem withTrain_req (p : List Duration) (n hz : Word) : (b.withTrain p n hz).req = b.req := rfl
@[simp] theorem withTrain_carrierKhz (p : List Duration) (n hz : Word) : (b.withTrain p n hz).carrierKhz = b.carrierKhz :=
    rfl
@[simp] theorem withTrain_hdr (p : List Duration) (n hz : Word) : (b.withTrain p n hz).hdr = b.hdr := rfl
@[simp] theorem withTrain_one (p : List Duration) (n hz : Word) : (b.withTrain p n hz).one = b.one := rfl
@[simp] theorem withTrain_zero (p : List Duration) (n hz : Word) : (b.withTrain p n hz).zero = b.zero := rfl
@[simp] theorem withTrain_sercfg (p : List Duration) (n hz : Word) : (b.withTrain p n hz).sercfg = b.sercfg := rfl
@[simp] theorem withTrain_word (p : List Duration) (n hz : Word) : (b.withTrain p n hz).word = b.word := rfl
@[simp] theorem withTrain_pulseLen (p : List Duration) (n hz : Word) : (b.withTrain p n hz).pulseLen = n := rfl
@[simp] theorem withTrain_carrierHz (p : List Duration) (n hz : Word) : (b.withTrain p n hz).carrierHz = hz := rfl
@[simp] theorem withTrain_pulse (p : List Duration) (n hz : Word) : (b.withTrain p n hz).pulse = p := rfl

/-! `Block.withTiming` -/

@[simp] theorem withTiming_status (k h o z c : Word) : (b.withTiming k h o z c).status = b.status := rfl
@[simp] theorem withTiming_req (k h o z c : Word) : (b.withTiming k h o z c).req = b.req := rfl
@[simp] theorem withTiming_carrierKhz (k h o z c : Word) : (b.withTiming k h o z c).carrierKhz = k := rfl
@[simp] theorem withTiming_hdr (k h o z c : Word) : (b.withTiming k h o z c).hdr = h := rfl
@[simp] theorem withTiming_one (k h o z c : Word) : (b.withTiming k h o z c).one = o := rfl
@[simp] theorem withTiming_zero (k h o z c : Word) : (b.withTiming k h o z c).zero = z := rfl
@[simp] theorem withTiming_sercfg (k h o z c : Word) : (b.withTiming k h o z c).sercfg = c := rfl
@[simp] theorem withTiming_word (k h o z c : Word) : (b.withTiming k h o z c).word = b.word := rfl
@[simp] theorem withTiming_pulseLen (k h o z c : Word) : (b.withTiming k h o z c).pulseLen = b.pulseLen := rfl
@[simp] theorem withTiming_carrierHz (k h o z c : Word) : (b.withTiming k h o z c).carrierHz = b.carrierHz := rfl
@[simp] theorem withTiming_pulse (k h o z c : Word) : (b.withTiming k h o z c).pulse = b.pulse := rfl

end Sys2Proof.Laws
end

