-- ==== Sys2Proof/Laws/Ops.lean ====
section
/-! SUPPORT. What the shared operations can do, said once: packing and its fields, the register map, writes, the error outcomes. -/

namespace Sys2Proof.Laws

open Sys2Proof.Machine

/-! Packed words and their fields. -/

@[simp] theorem packWord_b0 (a b c d : Byte) : (packWord a b c d).extractLsb' 24 8 = a := by
  ext i hi
  simp [packWord]
  grind

@[simp] theorem packWord_b1 (a b c d : Byte) : (packWord a b c d).extractLsb' 16 8 = b := by
  ext i hi
  simp [packWord]
  grind

@[simp] theorem packWord_b2 (a b c d : Byte) : (packWord a b c d).extractLsb' 8 8 = c := by
  ext i hi
  simp [packWord]
  grind

@[simp] theorem packWord_b3 (a b c d : Byte) : (packWord a b c d).extractLsb' 0 8 = d := by
  ext i hi
  simp [packWord]
  grind

@[simp] theorem wordBytes_packWord (a b c d : Byte) : wordBytes (packWord a b c d) = [a, b, c, d] := by
  simp [wordBytes]

/-- A packed word as a number. -/
theorem packWord_toNat (a b c d : Byte) :
    (packWord a b c d).toNat = a.toNat * 2 ^ 24 + b.toNat * 2 ^ 16 + c.toNat * 2 ^ 8 + d.toNat := by
  have h0 := congrArg BitVec.toNat (packWord_b0 a b c d)
  have h1 := congrArg BitVec.toNat (packWord_b1 a b c d)
  have h2 := congrArg BitVec.toNat (packWord_b2 a b c d)
  have h3 := congrArg BitVec.toNat (packWord_b3 a b c d)
  rw [BitVec.extractLsb'_toNat, Nat.shiftRight_eq_div_pow] at h0 h1 h2 h3
  have := (packWord a b c d).isLt
  omega

@[simp] theorem markOf_timingWord (m p : Duration) : markOf (timingWord m p) = m := by
  ext i hi
  simp [markOf, timingWord]
  grind

@[simp] theorem spaceOf_timingWord (m p : Duration) : spaceOf (timingWord m p) = p := by
  ext i hi
  simp [spaceOf, timingWord]
  grind

@[simp] theorem bitCountField_sercfgWord (n : BitVec 16) (m : Bool) : bitCountField (sercfgWord n m) = n := by
  have bit16 : ∀ j < 16, (65536#32).getLsbD j = false := by decide
  ext i hi
  have := bit16 i hi
  cases m <;> simp_all [bitCountField, sercfgWord, flagWord] <;> grind

@[simp] theorem msbField_sercfgWord (n : BitVec 16) (m : Bool) : msbField (sercfgWord n m) = m := by
  cases m <;> simp [msbField, sercfgWord, flagWord]

/-! REQ and its fields (R24, R90). -/

theorem flagWord_getLsbD (b : Bool) (i : Nat) : (flagWord b).getLsbD i = (b && decide (i = 0)) := by
  cases b <;> simp [flagWord]

/-- The bits of a REQ word, place by place (R24). -/
theorem value_getLsbD (f : ReqFields) (i : Nat) (hi : i < 32) :
    f.value.getLsbD i =
      if i = 0 then f.power
      else if i < 4 then f.mode.getLsbD (i - 1)
      else if i < 6 then f.fan.getLsbD (i - 4)
      else if i < 9 then f.vane.getLsbD (i - 6)
      else if i = 9 then f.lr
      else if i = 10 then f.health
      else if i = 11 then f.sleep
      else if i = 12 then f.timer
      else if i = 13 then f.tvalid
      else if i < 16 then false
      else f.temp.getLsbD (i - 16) := by
  simp only [ReqFields.value, BitVec.getLsbD_or, BitVec.getLsbD_shiftLeft, flagWord_getLsbD, BitVec.getLsbD_setWidth]
  interval_cases i <;> simp

/-- The fields of a composed REQ word are the fields it was composed from. -/
@[simp] theorem reqFields_value (f : ReqFields) : reqFields f.value = f := by
  have h := value_getLsbD f
  obtain ⟨⟩ := f
  simp only [reqFields, ReqFields.mk.injEq]
  refine ⟨h 0 (by omega), ?_, ?_, ?_, h 9 (by omega), h 10 (by omega), h 11 (by omega), h 12 (by omega),
    h 13 (by omega), ?_⟩ <;>
  · apply BitVec.eq_of_getLsbD_eq
    intro i hi
    rw [BitVec.getLsbD_extractLsb', h _ (by omega)]
    simp only [hi, decide_true, Bool.true_and]
    interval_cases i <;> simp

/-- A REQ word composed from the fields of a word is that word with its reserved bits cleared. -/
theorem value_reqFields (w : Word) : (reqFields w).value = w &&& reqMask := by
  apply BitVec.eq_of_getLsbD_eq
  intro i hi
  rw [value_getLsbD _ _ hi]
  simp only [reqFields, reqMask]
  interval_cases i <;> simp

/-! The register map. -/

@[simp] theorem regAt_offset_cmd : regAt (Reg.offset .cmd) = some .cmd := by decide

/-- A window word is found at its offset. -/
theorem regAt_offset_pulse {k : Nat} (h : k < 129) : regAt (Reg.offset (.pulse k)) = some (.pulse k) := by
  have ha : (Reg.offset (.pulse k)).toNat = 0x100 + 4 * k := by
    simp only [Reg.offset, BitVec.toNat_ofNat]
    omega
  unfold regAt
  rw [ha]
  split <;> first | omega | skip
  rw [if_pos (by omega)]
  congr 2
  omega

/-- Every offset that names CMD is 0x000. -/
theorem regAt_eq_cmd {a : Offset} (h : regAt a = some .cmd) : a = 0 := by
  apply BitVec.eq_of_toNat_eq
  unfold regAt at h
  split at h <;> first | contradiction | simpa | skip
  split at h <;> cases h

/-- A register found at an aligned offset is the one whose offset it is. -/
theorem offset_of_regAt {a : Offset} {r : Reg} (h : regAt a = some r) (ha : a.toNat % 4 = 0) : r.offset = a := by
  apply BitVec.eq_of_toNat_eq
  unfold regAt at h
  split at h <;> first
    | (cases h; simp [Reg.offset, *])
    | skip
  split at h
  · cases h
    simp only [Reg.offset, BitVec.toNat_ofNat]
    omega
  · contradiction

/-- The offsets of R21's two reserved ranges name no register. -/
theorem regAt_reserved {a : Offset} (h : (0x038 ≤ a.toNat ∧ a.toNat < 0x100) ∨ 0x304 ≤ a.toNat) :
    regAt a = none := by
  have hp : ¬(0x100 ≤ a.toNat ∧ a.toNat < 0x304) := by omega
  generalize hr : regAt a = r
  unfold regAt at hr
  split at hr
  case h_15 => rw [← hr, if_neg hp]
  all_goals omega

/-! Legal accesses, writes and the error outcomes. -/

/-- The only legal access is 4 bytes at a multiple of 4 (R61, R62). -/
theorem legal_iff {a : Access} : a.legal = true ↔ a.width = 4 ∧ a.addr.toNat % 4 = 0 := by
  simp [Access.legal]

/-- A register write never reaches what only SERIALIZE writes (R31-R33). -/
theorem writeReg_train (b : Block) (v : Word) (r : Reg) :
    (writeReg b v r).pulse = b.pulse ∧ (writeReg b v r).pulseLen = b.pulseLen ∧
      (writeReg b v r).carrierHz = b.carrierHz := by
  cases r <;> simp [writeReg]

/-- A BusError either ends the step or is reported, and the block, the sink and the host's records stay. -/
theorem raiseBusError_cases (a : Offset) (n : Nat) (s : State) :
    (s.host.params.busErrorResponse = .abort ∧ raiseBusError a n s = .fault (.busError a n)) ∨
      (s.host.params.busErrorResponse = .report ∧ raiseBusError a n s = .next (s.answer (.busError a n))) := by
  unfold raiseBusError
  cases h : s.host.params.busErrorResponse <;> simp

end Sys2Proof.Laws
end

