-- ==== Sys2Proof/Laws/Encoder.lean ====
section
/-! SUPPORT. The ranges of the encoder's values, and its temperature byte as a number. -/

namespace Sys2Proof.Laws

open Sys2Proof.Machine

/-- The normalised temperature is in [16.0, 30.0] (R102). -/
theorem normaliseTemp_range (v : Bool) (t : BitVec 16) :
    4096 ≤ normaliseTemp v t ∧ normaliseTemp v t ≤ 7680 := by
  unfold normaliseTemp
  simp only
  omega

/-- The whole degrees of a normalised temperature are 16..30 (R103). -/
theorem fullDeg_range {t : Int} (lo : 4096 ≤ t) (hi : t ≤ 7680) : 16 ≤ fullDeg t ∧ fullDeg t ≤ 30 := by
  unfold fullDeg
  omega

/-- The normalised vane state is 0..6 (R101). -/
theorem normaliseVane_le (c : BitVec 3) : (normaliseVane c).toNat ≤ 6 := by
  unfold normaliseVane
  split
  · assumption
  · decide

/-- The temperature byte never wraps: `8*(full_deg - 8) + vane` (R105). -/
theorem tempByte_toNat {full : Int} {v : BitVec 3} (lo : 16 ≤ full) (hi : full ≤ 30) :
    ((tempByte full v).toNat : Int) = 8 * (full - 8) + v.toNat := by
  have := v.isLt
  unfold tempByte baseTemp
  rw [BitVec.toNat_ofInt]
  omega

end Sys2Proof.Laws
end

