-- ==== Sys2Proof/Laws/Platform.lean ====
section
/-! SUPPORT. What the platform's parameters do: the window, what of an event reaches the block, and overtaking. -/

namespace Sys2Proof.Laws

open Sys2Proof.Machine

/-- A host address in the window is found at its offset. -/
@[simp] theorem windowOffset_add (base : Nat) (a : Offset) : windowOffset base (base + a.toNat) = some a := by
  have := a.isLt
  unfold windowOffset
  rw [if_pos ⟨by omega, by simp only [Config.windowBytes]; omega⟩]
  simp

/-- A host address outside the window has no offset. -/
theorem windowOffset_outside {base addr : Nat} (h : addr < base ∨ base + 4096 ≤ addr) :
    windowOffset base addr = none := by
  unfold windowOffset
  rw [if_neg (by simp only [Config.windowBytes]; omega)]

/-! What of an event reaches the block. -/

@[simp] theorem input_access (p : HostParams) (a : Access) : HostEvent.input p (.access a) = .access a := rfl
@[simp] theorem input_wait (p : HostParams) (d : Nat) : HostEvent.input p (.wait d) = .nothing := rfl
@[simp] theorem input_control (p : HostParams) (r : ControlRequest) : HostEvent.input p (.control r) = .nothing := rfl
@[simp] theorem input_reset (p : HostParams) : HostEvent.input p .reset = .reset := rfl
@[simp] theorem input_overtake (p : HostParams) (k : Nat) : HostEvent.input p (.overtake k) = .nothing := rfl

@[simp] theorem input_busRead (p : HostParams) (a : Offset) (n : Nat) :
    HostEvent.input p (.busRead (p.base + a.toNat) n) = .access (.read a n) := by
  simp [HostEvent.input]

@[simp] theorem input_busWrite (p : HostParams) (a : Offset) (n : Nat) (v : Word) :
    HostEvent.input p (.busWrite (p.base + a.toNat) n v) = .access (.write a n v) := by
  simp [HostEvent.input]

theorem input_busRead_outside {p : HostParams} {addr : Nat} (n : Nat) (h : addr < p.base ∨ p.base + 4096 ≤ addr) :
    HostEvent.input p (.busRead addr n) = .nothing := by
  simp [HostEvent.input, windowOffset_outside h]

theorem input_busWrite_outside {p : HostParams} {addr : Nat} (n : Nat) (v : Word)
    (h : addr < p.base ∨ p.base + 4096 ≤ addr) : HostEvent.input p (.busWrite addr n v) = .nothing := by
  simp [HostEvent.input, windowOffset_outside h]

theorem input_platform (p : HostParams) (k : Nat) :
    HostEvent.input p (.platform k) = if k ∈ p.resetSources then .reset else .nothing := rfl

/-! Overtaking. -/

/-- Bringing an event forward only reorders the queue. -/
theorem bringForward_perm (k : Nat) (q : List HostEvent) : (bringForward k q).Perm q := by
  unfold bringForward
  split
  · rename_i e he
    split
    · obtain ⟨hk, rfl⟩ := List.getElem?_eq_some_iff.mp he
      exact List.getElem_cons_eraseIdx_perm hk
    · exact .refl q
  · exact .refl q

/-- Overtaking touches nothing but the order of the queue. -/
theorem takeOvertake_eq (k : Nat) (s : State) :
    ∃ q, q.Perm s.host.queue ∧ takeOvertake k s = s.withQueue q := by
  unfold takeOvertake
  split
  · exact ⟨_, .refl _, rfl⟩
  · exact ⟨_, bringForward_perm _ _, rfl⟩

@[simp] theorem takeOvertake_block (k : Nat) (s : State) : (takeOvertake k s).block = s.block := by
  obtain ⟨q, -, h⟩ := takeOvertake_eq k s
  simp [h]

@[simp] theorem takeOvertake_sink (k : Nat) (s : State) : (takeOvertake k s).sink = s.sink := by
  obtain ⟨q, -, h⟩ := takeOvertake_eq k s
  simp [h]

@[simp] theorem takeOvertake_params (k : Nat) (s : State) : (takeOvertake k s).host.params = s.host.params := by
  obtain ⟨q, -, h⟩ := takeOvertake_eq k s
  simp [h]

end Sys2Proof.Laws
end

