-- ==== Sys2Proof/Laws/Host.lean ====
section
/-! SUPPORT. The host's contract: what taking up a request leaves alone, and that its command sequence is legal. -/

namespace Sys2Proof.Laws

open Sys2Proof.Machine

@[simp] theorem reportSink_block (s : State) : (reportSink s).block = s.block := by
  unfold reportSink
  split <;> rfl

@[simp] theorem reportSink_sink (s : State) : (reportSink s).sink = s.sink := by
  unfold reportSink
  split <;> rfl

@[simp] theorem reportSink_log (s : State) :
    (reportSink s).host.log = s.host.log ++ if s.host.params.sinkAttached then [] else [.noSink] := by
  unfold reportSink
  split <;> simp_all

@[simp] theorem reportSink_params (s : State) : (reportSink s).host.params = s.host.params := by
  unfold reportSink
  split <;> rfl

@[simp] theorem takeControl_block (r : ControlRequest) (s : State) : (takeControl r s).block = s.block := by
  simp [takeControl]

@[simp] theorem takeControl_sink (r : ControlRequest) (s : State) : (takeControl r s).sink = s.sink := by
  simp [takeControl]

/-- A named register is written legally (R88). -/
@[simp] theorem wr_safe (p : HostParams) (r : Reg) (v : Word) : (wr r v).safe p = true := by
  have aligned : r.offset.toNat % 4 = 0 := by
    cases r <;> simp [Reg.offset]
  simp [wr, HostEvent.safe, Access.legal, Access.width, Access.addr, aligned]

@[simp] theorem wait_safe (p : HostParams) (d : Nat) : HostEvent.safe p (.wait d) = true := rfl

@[simp] theorem cmd_safe (p : HostParams) (i : Instr) : (cmd i).safe p = true := wr_safe _ _ _

@[simp] theorem req_safe (p : HostParams) (f : ReqFields) : (req f).safe p = true := wr_safe _ _ _

/-- Every access of a request's command sequence is legal (R208). -/
theorem controlSequence_safe (p q : HostParams) (e : Climate) :
    (controlSequence p e).all (HostEvent.safe q) = true := by
  cases hs : p.sinkAttached <;> cases hr : p.retransmit <;>
    simp [controlSequence, transmission, retransmission, hs, hr]

/-- The host's side of an event never reaches the block or the sink. -/
@[simp] theorem hostEffect_block (e : HostEvent) (s : State) : (hostEffect e s).block = s.block := by
  cases e <;> simp [hostEffect]

@[simp] theorem hostEffect_sink (e : HostEvent) (s : State) : (hostEffect e s).sink = s.sink := by
  cases e <;> simp [hostEffect]

/-- No event changes the parameters. -/
@[simp] theorem hostEffect_params (e : HostEvent) (s : State) : (hostEffect e s).host.params = s.host.params := by
  cases e <;> simp [hostEffect, takeControl]

end Sys2Proof.Laws
end

