-- ==== Sys2Proof/Laws/PerInstr.lean ====
section
/-! SUPPORT. Per-command families: each statement about a command as syntax, one lemma per constructor. -/

namespace Sys2Proof.Laws.TableRow

/-- The word of a command belongs to exactly one row of the opcode table, the one with its mnemonic. -/
def Statement (i : Instr) : Prop :=
  (opcodeTable.filter (·.admits (encode i))).map (·.mnemonic) = [i.mnemonic]

theorem nop : Statement .nop := by unfold Statement; decide

theorem encode : Statement .encode := by unfold Statement; decide

theorem serialize : Statement .serialize := by unfold Statement; decide

theorem transmit : Statement .transmit := by unfold Statement; decide

theorem loadPreset (hv : HeaderVariant) (fb : FrameBits) : Statement (.loadPreset hv fb) := by
  cases hv <;> cases fb <;> (unfold Statement; decide)

end Sys2Proof.Laws.TableRow
end

