-- ==== Sys2Proof/Laws/Serializer.lean ====
section
/-! SUPPORT. The lengths of the raw train and of the train, and what the filled buffer holds. -/

namespace Sys2Proof.Laws

open Sys2Proof.Machine

/-- The capped count is at most `MAX_BITS` (R152). -/
theorem cappedCount_le (c : Word) : cappedCount c ≤ 128 := Nat.min_le_right _ _

/-- The raw train is a header pair and a pair per bit (R153). -/
theorem rawTrain_length (b : Block) : (rawTrain b).length = 2 + 2 * cappedCount b.sercfg := by
  simp [rawTrain, pairOf, List.length_flatMap]
  omega

/-- A train fits the PULSE buffer (R157). -/
theorem train_length_le (b : Block) : (train b).length ≤ 258 := by
  have h := List.length_filter_le (· ≠ 0) (rawTrain b)
  have := cappedCount_le b.sercfg
  have := rawTrain_length b
  unfold train
  omega

/-- No entry of a train is 0 (R154). -/
theorem zero_notMem_train (b : Block) : 0 ∉ train b := by
  simp [train]

/-- The filled buffer has its size. -/
theorem padTrain_length {p : List Duration} (h : p.length ≤ 258) : (padTrain p).length = 258 := by
  simp [padTrain, Config.pulseCap]
  omega

/-- The filled buffer holds the train, then zeros (R157). -/
theorem padTrain_getD (p : List Duration) (k : Nat) :
    (padTrain p).getD k 0 = if k < p.length then p.getD k 0 else 0 := by
  unfold padTrain
  by_cases h : k < p.length
  · rw [List.getD_append _ _ _ _ h, if_pos h]
  · rw [List.getD_append_right _ _ _ _ (by omega)]
    simp [h]

/-- The carrier in Hz is the kHz field times 1000, with no wrap (R158). -/
theorem carrierInHz_toNat (w : Word) : (carrierInHz w).toNat = 1000 * (khzField w).toNat := by
  have := (khzField w).isLt
  simp [carrierInHz, BitVec.toNat_mul]
  omega

end Sys2Proof.Laws
end

