-- ==== Sys2Proof/Laws/Step.lean ====
section
/-! SUPPORT. What a step can do, said once: the commands as equations, then the inversions of a step. -/

namespace Sys2Proof.Laws

open Sys2Proof.Machine

/-- A step takes the event at the front of the queue. -/
theorem step_cons (e : HostEvent) (rest : List HostEvent) (s : State) :
    step (s.withQueue (e :: rest)) =
      match eventEffect e (s.withQueue rest) with
      | .run i t => exec i t
      | .done o => o := rfl

/-- An event whose input is an access is that access. -/
theorem eventEffect_access {e : HostEvent} {a : Access} {s : State} (h : e.input s.host.params = .access a) :
    eventEffect e s = accessEffect a s := by
  simp only [eventEffect, h]

/-- An event whose input is reset resets the block. -/
theorem eventEffect_reset {e : HostEvent} {s : State} (h : e.input s.host.params = .reset) :
    eventEffect e s = .done (.next (resetBlock s)) := by
  simp only [eventEffect, h]

/-- An event that the block does not see has its effect on the host's side alone. -/
theorem eventEffect_nothing {e : HostEvent} {s : State} (h : e.input s.host.params = .nothing) :
    eventEffect e s = .done (.next (hostEffect e s)) := by
  simp only [eventEffect, h]

@[simp] theorem eventEffect_of_access (a : Access) (s : State) : eventEffect (.access a) s = accessEffect a s := rfl

@[simp] theorem eventEffect_of_wait (d : Nat) (s : State) : eventEffect (.wait d) s = .done (.next s) := rfl

@[simp] theorem eventEffect_of_control (r : ControlRequest) (s : State) :
    eventEffect (.control r) s = .done (.next (takeControl r s)) := rfl

@[simp] theorem eventEffect_of_reset (s : State) : eventEffect .reset s = .done (.next (resetBlock s)) := rfl

@[simp] theorem eventEffect_of_overtake (k : Nat) (s : State) :
    eventEffect (.overtake k) s = .done (.next (takeOvertake k s)) := rfl

/-- An access of a wrong width or alignment is the BusError outcome (R235). -/
theorem accessEffect_illegal {a : Access} (s : State) (h : a.legal = false) :
    accessEffect a s = .done (raiseBusError a.addr a.width s) := by
  simp [accessEffect, h]

/-- A legal read answers the value at its offset (R63). -/
theorem accessEffect_read {a : Offset} (s : State) (h : a.toNat % 4 = 0) :
    accessEffect (.read a 4) s = .done (.next (s.answer (.value (readOffset s.block a)))) := by
  simp [accessEffect, Access.legal, Access.addr, Access.width, h]

/-- A legal write is `writeEffect` (R63). -/
theorem accessEffect_write {a : Offset} (s : State) (v : Word) (h : a.toNat % 4 = 0) :
    accessEffect (.write a 4 v) s = writeEffect a v s := by
  simp [accessEffect, Access.legal, Access.addr, Access.width, h]

/-- A CMD write of a legal word comes to its command (R85). -/
theorem writeEffect_command {v : Word} {i : Instr} (s : State) (h : decode v = .instr i) :
    writeEffect 0x000 v s = .run i (s.answer .written) := by
  have hc : regAt 0x000 = some .cmd := regAt_offset_cmd
  simp only [writeEffect, hc, h]

/-- A CMD write of an illegal word is IllegalCommand (R231). -/
theorem writeEffect_illegal {v : Word} {g : IllegalGroup} (s : State) (h : decode v = .illegal g) :
    writeEffect 0x000 v s = .done (.next ((raiseIllegalCommand s).answer .written)) := by
  have hc : regAt 0x000 = some .cmd := regAt_offset_cmd
  simp only [writeEffect, hc, h]

/-- A write to a register other than CMD stores by `writeReg` (R63). -/
theorem writeEffect_register {a : Offset} {r : Reg} (s : State) (v : Word) (h : regAt a = some r) (hr : r ≠ .cmd) :
    writeEffect a v s = .done (.next ((s.withBlock (writeReg s.block v r)).answer .written)) := by
  cases r <;> first | contradiction | simp only [writeEffect, h]

/-- A write to a reserved offset is ignored (R234). -/
theorem writeEffect_reserved {a : Offset} (s : State) (v : Word) (h : regAt a = none) :
    writeEffect a v s = .done (.next (s.answer .written)) := by
  simp only [writeEffect, h]

/-- An event that comes to a command is a legal CMD write whose word decodes to it. -/
theorem eventEffect_run {e : HostEvent} {s t : State} {i : Instr} (h : eventEffect e s = .run i t) :
    ∃ v, e.input s.host.params = .access (.write 0 4 v) ∧ decode v = .instr i ∧ t = s.answer .written := by
  unfold eventEffect at h
  split at h <;> try contradiction
  rename_i a he
  rw [he]
  unfold accessEffect at h
  split at h
  case isFalse => contradiction
  case isTrue hl =>
    rcases a with _ | ⟨addr, n, v⟩ <;> simp only at h
    · contradiction
    · unfold writeEffect at h
      split at h <;> try contradiction
      split at h <;> try contradiction
      cases h
      have hc : addr = 0 := regAt_eq_cmd ‹_›
      have hn : n = 4 := (legal_iff.mp hl).1
      subst hc hn
      exact ⟨v, rfl, ‹_›, rfl⟩

/-- Everything a step can be: idle, a command, or an event that is finished at once. -/
theorem step_cases (s : State) :
    (s.host.queue = [] ∧ step s = .next s) ∨
    (∃ e v rest i, s.host.queue = e :: rest ∧ e.input s.host.params = .access (.write 0 4 v) ∧ decode v = .instr i ∧
      step s = exec i ((s.withQueue rest).answer .written)) ∨
    (∃ e rest o, s.host.queue = e :: rest ∧ eventEffect e (s.withQueue rest) = .done o ∧ step s = o) := by
  cases hq : s.host.queue with
  | nil => exact .inl ⟨rfl, by simp [step, nextEffect, hq]⟩
  | cons e rest =>
    right
    cases he : eventEffect e (s.withQueue rest) with
    | run i t =>
      obtain ⟨v, hi, hd, rfl⟩ := eventEffect_run he
      exact .inl ⟨e, v, rest, i, rfl, hi, hd, by simp only [step, nextEffect, hq, he]⟩
    | done o => exact .inr ⟨e, rest, o, rfl, he, by simp [step, nextEffect, hq, he]⟩

/-- The state a finished access leaves, or the fault it ends in. -/
theorem accessEffect_done {a : Access} {s : State} {o : Host.Outcome State Fault Refusal}
    (h : accessEffect a s = .done o) :
    (a.legal = false ∧ o = raiseBusError a.addr a.width s) ∨
    (∃ addr, a = .read addr 4 ∧ addr.toNat % 4 = 0 ∧
      o = .next (s.answer (.value (readOffset s.block addr)))) ∨
    (∃ addr v, a = .write addr 4 v ∧ addr.toNat % 4 = 0 ∧
      ((∃ g, addr = 0 ∧ decode v = .illegal g ∧
          o = .next ((raiseIllegalCommand s).answer .written)) ∨
       (∃ r, addr = Reg.offset r ∧ regAt addr = some r ∧ r ≠ .cmd ∧
          o = .next ((s.withBlock (writeReg s.block v r)).answer .written)) ∨
       (regAt addr = none ∧ o = .next (s.answer .written)))) := by
  cases hl : a.legal
  · simp only [accessEffect, hl, Bool.false_eq_true, if_false, Effect.done.injEq] at h
    exact .inl ⟨rfl, h.symm⟩
  · obtain ⟨hn, ha⟩ := legal_iff.mp hl
    right
    rcases a with ⟨addr, n⟩ | ⟨addr, n, v⟩ <;> simp only [Access.width, Access.addr] at hn ha <;> subst hn
    · rw [accessEffect_read s ha] at h
      cases h
      exact .inl ⟨addr, rfl, ha, rfl⟩
    · rw [accessEffect_write s v ha] at h
      refine .inr ⟨addr, v, rfl, ha, ?_⟩
      unfold writeEffect at h
      split at h
      · split at h
        · contradiction
        · cases h
          exact .inl ⟨_, regAt_eq_cmd ‹_›, ‹_›, rfl⟩
      · rename_i r hne hr
        cases h
        exact .inr (.inl ⟨r, (offset_of_regAt hr ha).symm, hr, hne, rfl⟩)
      · cases h
        exact .inr (.inr ⟨‹_›, rfl⟩)

/-- What a step that goes on leaves in the block and the sink: nothing changed, a command's own effect, an illegal word's
flag, one register written, or reset. -/
theorem step_next_cases {s t : State} (h : step s = .next t) :
    (t.block = s.block ∧ t.sink = s.sink) ∨
    (∃ e v i rest u, s.host.queue = e :: rest ∧ e.input s.host.params = .access (.write 0 4 v) ∧ decode v = .instr i ∧
      u.block = s.block ∧ u.sink = s.sink ∧ exec i u = .next t) ∨
    (∃ e v g rest, s.host.queue = e :: rest ∧ e.input s.host.params = .access (.write 0 4 v) ∧ decode v = .illegal g ∧
      t.block = s.block.setIll ∧ t.sink = s.sink) ∨
    (∃ e r v rest, s.host.queue = e :: rest ∧ e.input s.host.params = .access (.write (Reg.offset r) 4 v) ∧ r ≠ .cmd ∧
      t.block = writeReg s.block v r ∧ t.sink = s.sink) ∨
    (∃ e rest, s.host.queue = e :: rest ∧ e.input s.host.params = .reset ∧ t.block = Block.reset ∧ t.sink = []) := by
  rcases step_cases s with ⟨hq, hs⟩ | ⟨e, v, rest, i, hq, hi, hd, hs⟩ | ⟨e, rest, o, hq, he, hs⟩ <;> rw [hs] at h
  · cases h
    exact .inl ⟨rfl, rfl⟩
  · exact .inr (.inl ⟨e, v, i, rest, (s.withQueue rest).answer .written, hq, hi, hd, rfl, rfl, h⟩)
  · subst h
    unfold eventEffect at he
    split at he
    case h_1 a hi =>
      rcases accessEffect_done he with ⟨-, ho⟩ | ⟨_, _, _, ho⟩ | ⟨addr, v, rfl, -, h | h | h⟩
      · rcases raiseBusError_cases a.addr a.width (s.withQueue rest) with ⟨-, hr⟩ | ⟨-, hr⟩ <;>
          rw [hr] at ho <;> cases ho
        exact .inl ⟨rfl, rfl⟩
      · cases ho
        exact .inl ⟨rfl, rfl⟩
      · obtain ⟨g, rfl, hd, ho⟩ := h
        cases ho
        exact .inr (.inr (.inl ⟨e, v, g, rest, hq, hi, hd, rfl, rfl⟩))
      · obtain ⟨r, rfl, -, hne, ho⟩ := h
        cases ho
        exact .inr (.inr (.inr (.inl ⟨e, r, v, rest, hq, hi, hne, rfl, rfl⟩)))
      · obtain ⟨-, ho⟩ := h
        cases ho
        exact .inl ⟨rfl, rfl⟩
    case h_2 hi =>
      cases he
      exact .inr (.inr (.inr (.inr ⟨e, rest, hq, hi, rfl, rfl⟩)))
    case h_3 =>
      cases he
      exact .inl ⟨hostEffect_block e _, hostEffect_sink e _⟩

end Sys2Proof.Laws
end

