-- ==== Sys2Proof/Tests/Slice0.lean ====
section
/-! SUPPORT. The model's own tests; expected results are those of spec/95_test_vectors.md and the rules' own examples. -/

namespace Sys2Proof.Tests

open Sys2Proof.Machine

/-! Well-formedness: a word of each group of R86 is refused. -/

theorem test_wf_refuses_reserved_op : wordWf 0x00000005 = false := by decide
theorem test_wf_refuses_operand_bits_in_z : wordWf 0x00000101 = false := by decide
theorem test_wf_refuses_reserved_bits_in_p : wordWf 0x00000404 = false := by decide
theorem test_wf_takes_every_preset :
    wordWf 0x00000004 ∧ wordWf 0x00000104 ∧ wordWf 0x00000204 ∧ wordWf 0x00000304 := by decide

/-! Decoding: words written out from R80-R84 (RSV[31:10] FB[9] HV[8] OP[7:0]). -/

theorem test_decode_nop : decode 0b0000000000000000000000_0_0_00000000 = .instr .nop := by decide
theorem test_decode_encode : decode 0b0000000000000000000000_0_0_00000001 = .instr .encode := by decide
theorem test_decode_serialize : decode 0b0000000000000000000000_0_0_00000010 = .instr .serialize := by decide
theorem test_decode_transmit : decode 0b0000000000000000000000_0_0_00000011 = .instr .transmit := by decide
theorem test_decode_preset_00 :
    decode 0b0000000000000000000000_0_0_00000100 = .instr (.loadPreset .h8950 .bits104) := by decide
theorem test_decode_preset_hv :
    decode 0b0000000000000000000000_0_1_00000100 = .instr (.loadPreset .h9000 .bits104) := by decide
theorem test_decode_preset_fb :
    decode 0b0000000000000000000000_1_0_00000100 = .instr (.loadPreset .h8950 .bits105) := by decide
theorem test_decode_preset_both :
    decode 0b0000000000000000000000_1_1_00000100 = .instr (.loadPreset .h9000 .bits105) := by decide

/-- V86: each of these is illegal, in the group of R86 it belongs to. -/
theorem test_decode_illegal :
    decode 0x00000005 = .illegal .reservedOp ∧ decode 0x000000FF = .illegal .reservedOp ∧
    decode 0x00000100 = .illegal .operandBitsInZ ∧ decode 0x00000101 = .illegal .operandBitsInZ ∧
    decode 0x00000404 = .illegal .reservedBitsInP ∧ decode 0x00000804 = .illegal .reservedBitsInP ∧
    decode 0x80000002 = .illegal .operandBitsInZ ∧ decode 0xFFFFFFFF = .illegal .reservedOp := by decide

theorem test_table_word_of_preset :
    decodeTableWord 32 0x304 = some (.loadPreset .h9000 .bits105) ∧ decodeTableWord 32 5 = none := by decide

/-- No two rows of the opcode table share a word. -/
theorem test_rows_disjoint :
    opcodeTable.Pairwise fun r q => r.mask &&& q.mask &&& (r.pattern ^^^ q.pattern) ≠ 0 := by decide

/-! ENCODE (95 section 2.1). -/

/-- The words of a frame as a list. -/
def frameWords (req : Word) : List Word :=
  [(encodeFrame req).w0, (encodeFrame req).w1, (encodeFrame req).w2, (encodeFrame req).w3]

/-- V1, the golden frame. -/
theorem test_encode_golden :
    frameWords 0x180020C1 = [0x00E083C3, 0x002000A0, 0x02002000, 0x00000008] := by decide

/-- V31 and V33: every field at work, and every field at its largest code. -/
theorem test_encode_extremes :
    frameWords 0x1E802D97 = [0x00E0B6C3, 0x00D40060, 0x06002200, 0x000000B5] ∧
    frameWords 0xFFFF3FFF = [0x000043C3, 0x00340020, 0x02002200, 0x0000007E] := by decide

/-- V5, V12, V15, V16: the half degree, the signed compare, the clamp before the half test, the absent temperature. -/
theorem test_encode_temperatures :
    (encodeFrame 0x168020C1).w0 = 0x80E073C3 ∧ (encodeFrame 0xFB0020C1).w0 = 0x00E043C3 ∧
    (encodeFrame 0x1E8020C1).w0 = 0x00E0B3C3 ∧ (encodeFrame 0x000000C1).w0 = 0x00E083C3 := by decide

/-- V20, V21, V22, V28: the timer in Heat, and the power-off word. -/
theorem test_encode_word2 :
    (encodeFrame 0x180034C3).w2 = 0x02006000 ∧ (encodeFrame 0x180024C3).w2 = 0x02003200 ∧
    (encodeFrame 0x180030C3).w2 = 0x02006000 ∧ (encodeFrame 0x180030C2).w2 = 0x05000000 := by decide

/-! SERIALIZE (95 section 2.2), with its test timings. -/

/-- A block with the timings of 95's small trains, and the data and configuration of one row. -/
def smallBlock (word : WordBuf) (sercfg : Word) : Block :=
  { Block.reset with
    carrierKhz := 38, hdr := 0x00320064, one := 0x001E000A, zero := 0x000A000A, word := word, sercfg := sercfg }

/-- V40 and V41: the same train from 0xA5 read MSB first and LSB first. -/
theorem test_serialize_orders :
    train (smallBlock ⟨0xA5000000, 0, 0, 0⟩ 0x00010008) =
      [100, 50, 10, 30, 10, 10, 10, 30, 10, 10, 10, 10, 10, 30, 10, 10, 10, 30] ∧
    train (smallBlock ⟨0x000000A5, 0, 0, 0⟩ 0x00000008) =
      [100, 50, 10, 30, 10, 10, 10, 30, 10, 10, 10, 10, 10, 30, 10, 10, 10, 30] := by decide

/-- V47, V48, V52: across a word boundary in both orders, and the cap. -/
theorem test_serialize_counts :
    (train (smallBlock ⟨0, 1, 0, 0⟩ 0x00000021)).drop 64 = [10, 10, 10, 30] ∧
    (train (smallBlock ⟨0, 0x80000000, 0, 0⟩ 0x00010021)).drop 64 = [10, 10, 10, 30] ∧
    (train (smallBlock ⟨0, 0, 0, 0⟩ 0x00000190)).length = 258 := by decide +kernel

/-- V55 and V56: zero durations are dropped and later entries move. -/
theorem test_serialize_drops_zero :
    train { smallBlock ⟨1, 0, 0, 0⟩ 2 with hdr := 0x00320000 } = [50, 10, 30, 10, 10] ∧
    train { smallBlock ⟨1, 0, 0, 0⟩ 3 with zero := 0x0000000A } = [100, 50, 10, 30, 10, 10] := by decide

/-- V59 and V61: the carrier in Hz. -/
theorem test_carrier_hz : carrierInHz 38 = 0x00009470 ∧ carrierInHz 0x0000FFFF = 0x03E7FC18 := by decide

/-! Registers and the bus (95 section 2.5). -/

/-- The state with one event queued. -/
def withEvent (e : HostEvent) (s : State) : State := s.withQueue [e]

/-- V92: REQ written with all ones reads without its reserved bits; V95: a reserved offset reads 0. -/
theorem test_write_req :
    (nextState (step (withEvent (wr .req 0xFFFFFFFF) State.reset))).map (·.block.req) = some 0xFFFF3FFF ∧
    readOffset Block.reset 0xFFC = 0 := by decide

/-- V90 and V91: STATUS is write-1-to-clear. -/
theorem test_status_w1c :
    (Block.reset.setIll.writeStatus 0).status = 1 ∧ (Block.reset.setIll.writeStatus 1).status = 0 := by decide

/-- V97: a narrow write to CMD is a BusError on a platform that aborts. -/
theorem test_narrow_cmd_faults :
    nextState (step (withEvent (wrn 1 0x000 0x01) State.reset)) = none := by decide

/-- V100: the last window word holds entries 256 and 257. -/
theorem test_last_window_word :
    readOffset { Block.reset with pulse := List.replicate 256 0 ++ [7, 9] } 0x300 = 0x00090007 := by decide +kernel

/-- V71: TRANSMIT straight after reset emits one empty transaction. -/
theorem test_transmit_after_reset :
    (nextState (step (State.reset.withFetchWord 32 3))).map (·.sink) = some [⟨0, []⟩] := by decide

/-- V84: the preset with both operands set. -/
theorem test_load_preset :
    (nextState (step (State.reset.withFetchWord 32 0x304))).map
      (fun t => [t.block.carrierKhz, t.block.hdr, t.block.one, t.block.zero, t.block.sercfg]) =
      some [0x26, 0x11942328, 0x06720226, 0x02260226, 0x69] := by decide

/-! The platform (R6). -/

/-- A platform with its window at 0x40000000, a watchdog (event 7) as a reset source, and a bus that reorders. -/
def platformA : State :=
  { State.reset with host := { HostSide.initial with params :=
      { HostParams.initial with base := 0x40000000, resetSources := [7], busOrdered := false } } }

/-- The ends of the window are offsets 0x000 and 0xFFF; the addresses beside it are outside (R60). -/
theorem test_window :
    (HostEvent.busWrite 0x40000000 4 1).input platformA.host.params = .access (.write 0x000 4 1) ∧
    (HostEvent.busRead 0x40000FFF 1).input platformA.host.params = .access (.read 0xFFF 1) ∧
    (HostEvent.busRead 0x3FFFFFFC 4).input platformA.host.params = .nothing ∧
    (HostEvent.busRead 0x40001000 4).input platformA.host.params = .nothing := by decide

/-- A reset source puts REQ back to its reset value (R260); another platform event does not. -/
theorem test_reset_source :
    ((nextState (step ((platformA.withBlock { Block.reset with req := 1 }).withQueue [.platform 7]))).map (·.block.req),
     (nextState (step ((platformA.withBlock { Block.reset with req := 1 }).withQueue [.platform 8]))).map (·.block.req)) =
      (some 0x180020C0, some 1) := by decide

/-- On the reordering bus the second write can be delivered first (R71). -/
theorem test_overtake :
    (nextState (step (platformA.withQueue [.overtake 1, wr .hdr 1, wr .one 2]))).map (·.host.queue) =
      some [wr .one 2, wr .hdr 1] := by decide

/-! The host (R90, R207). -/

/-- R90's example, and 22.7 °C of V6. -/
theorem test_req_value :
    (ReqFields.value { power := true }) = 0x180020C1 ∧ tempOfCelsius (227 / 10) = 0x16B3 := by decide +kernel

/-- E8: power off after Heat, 26°, High, Vertical keeps those settings in REQ. -/
theorem test_power_off_request :
    (requestFields .zero (effective { Climate.initial with powerOn := false }
      ⟨.known .heat, .celsius 26, .known .high, .known .vertical⟩)).value = 0x1A002032 := by decide +kernel

/-! Witnesses: for each obligation with hypotheses, concrete operands that meet all of them, at the ends of each clause's
range. -/

/-- `WrongAccessIsBusError`, `OnlyWrongAccessStopsAStep`: the reset state on a platform with the given response. -/
def onPlatform (x : BusErrorResponse) : State :=
  { State.reset with host := { HostSide.initial with params := { HostParams.initial with busErrorResponse := x } } }

/-- `RegisterMapReadValues`: the ends of the two reserved ranges. -/
theorem witness_reserved_offsets : ∀ a ∈ [0x038, 0x0FC, 0x304, 0xFFC],
    a % 4 = 0 ∧ ((0x038 ≤ a ∧ a < 0x100) ∨ 0x304 ≤ a) := by decide

/-- `LegalReadAnswersAndChangesNothing`, `EveryLegalAccessCompletes`: the first and the last legal offset. -/
theorem witness_legal_access :
    (0x000 : Offset).toNat % 4 = 0 ∧ (0xFFC : Offset).toNat % 4 = 0 ∧
    (Access.read 0xFFC 4).width = 4 ∧ (Access.write 0x000 4 3).addr.toNat % 4 = 0 := by decide

/-- `WriteReadsBackUnderItsMask`: the first and the last register of the list, and a second offset that differs. -/
theorem witness_masked_registers :
    ((0x008, 0xFFFF3FFF) : Offset × Word) ∈ ([(0x008, 0xFFFF3FFF), (0x00C, 0x0000FFFF)] : List (Offset × Word)) ∧
    (Reg.offset .word3, (0xFFFFFFFF : Word)) = (0x02C, 0xFFFFFFFF) ∧
    (0x000 : Offset).toNat % 4 = 0 ∧ (0x000 : Offset) ≠ 0x008 := by decide

/-- `ReadOnlyAndReservedWritesIgnored`: PULSE_LEN, the last window word, and the first and last reserved offset. -/
theorem witness_ignored_offsets :
    (0x030 : Offset).toNat % 4 = 0 ∧ 0x030 ≤ (0x030 : Offset).toNat ∧ 0x030 ≤ (0x300 : Offset).toNat ∧
    (0x038 : Offset).toNat % 4 = 0 ∧ 0x038 ≤ (0x038 : Offset).toNat ∧ (0x038 : Offset).toNat < 0x100 ∧
    (0xFFC : Offset).toNat % 4 = 0 ∧ 0x304 ≤ (0xFFC : Offset).toNat := by decide

/-- `WrongAccessIsBusError`: a wrong width, a wrong alignment, and both responses. -/
theorem witness_wrong_access :
    (Access.write 0x000 1 1).width ≠ 4 ∧ (Access.read 0x002 4).addr.toNat % 4 ≠ 0 ∧
    (onPlatform .abort).host.params.busErrorResponse = .abort ∧
    (onPlatform .report).host.params.busErrorResponse = .report := by decide

/-- `OnlyWrongAccessStopsAStep`: a step that faults. -/
theorem witness_faulting_step :
    step ((onPlatform .abort).withQueue [.access (.read 0x002 4)]) = .fault (.busError 0x002 4) := rfl

/-- `SafeQueueNeverFaults`: a queue of every kind of event. -/
theorem witness_safe_queue :
    (State.reset.withQueue [cmd .encode, rd .status, .wait 5, .control { powerOn := some true }, .busRead 0x008 4,
      .busWrite 0x2001 1 0, .overtake 1, .platform 2, .reset]).safeQueue = true := by decide

/-- `HostAddressReachesItsOffset`: addresses just outside the window on both sides. -/
theorem witness_outside_window :
    0x3FFFFFFF < platformA.host.params.base ∧ platformA.host.params.base + 4096 ≤ 0x40001000 := by decide

/-- `ResetSourcesAndBusOrder`: a reset source and another event, both kinds of bus, and an event that may be moved. -/
theorem witness_platform :
    7 ∈ platformA.host.params.resetSources ∧ 8 ∉ platformA.host.params.resetSources ∧
    HostParams.initial.busOrdered = true ∧ platformA.host.params.busOrdered = false ∧
    [wr .hdr 1, wr .one 2][1]? = some (wr .one 2) ∧
    ([wr .hdr 1, wr .one 2].take 2).all HostEvent.reorderable = true := by decide

/-- `EightLegalWordsAndNoOther`: a word outside the list. -/
theorem witness_no_legal_word : wordWf 0x00000005 = false ∧ wordWf 0x00000404 = false := by decide

/-- `StepRunsTheWrittenCommand`: a word with both operands set. -/
theorem witness_decoded_command : decode 0x00000304 = .instr (.loadPreset .h9000 .bits105) := by decide

/-- `IllegalWordOnlySetsIll`: the ends of each of the three groups. -/
theorem witness_illegal_words :
    5 ≤ (0x00000005 : Word).toNat % 256 ∧ 5 ≤ (0xFFFFFFFF : Word).toNat % 256 ∧
    ((0x00000100 : Word).toNat % 256 ≤ 3 ∧ (0x00000100 : Word).toNat / 256 ≠ 0) ∧
    ((0x80000003 : Word).toNat % 256 ≤ 3 ∧ (0x80000003 : Word).toNat / 256 ≠ 0) ∧
    ((0x00000404 : Word).toNat % 256 = 4 ∧ (0x00000404 : Word).toNat / 1024 ≠ 0) := by decide

/-- `EncodeWordTwoPowerOff`, `EncodeWordTwoPowerOn`: the reset request, and the golden frame's. -/
theorem witness_power : State.reset.block.req.getLsbD 0 = false ∧
    (State.reset.withBlock { Block.reset with req := 0x180020C1 }).block.req.getLsbD 0 = true := by decide

/-- `OutOfRangeTemperaturesNormalise`, `UnmappedCodesEncodeAsDefaults`: just outside each bound. -/
theorem witness_out_of_range :
    ({ temp := 0x0FFF } : ReqFields).temp.toInt < 16 * 256 ∧ ({ temp := 0x8000 } : ReqFields).temp.toInt < 16 * 256 ∧
    30 * 256 < ({ temp := 0x1E01 } : ReqFields).temp.toInt ∧ 5 ≤ ({ mode := 5 } : ReqFields).mode.toNat := by decide

/-- `FrameDeterminesTheRequest`: two different REQ words with one frame. -/
theorem witness_equal_frames : encodeFrame 0x180020C1 = encodeFrame 0x000000C1 ∧
    (0x180020C1 : Word) ≠ 0x000000C1 := by decide

/-- `PairOfEachBitAtItsPlace`: timings with no zero, and bits to place. -/
theorem witness_nonzero_timings :
    (∀ w ∈ [(smallBlock ⟨1, 0, 0, 0⟩ 8).hdr, (smallBlock ⟨1, 0, 0, 0⟩ 8).one, (smallBlock ⟨1, 0, 0, 0⟩ 8).zero],
      markOf w ≠ 0 ∧ spaceOf w ≠ 0) ∧ 7 < min ((smallBlock ⟨1, 0, 0, 0⟩ 8).sercfg.toNat % 2 ^ 16) 128 := by
  simp only [List.forall_mem_cons, List.not_mem_nil, false_implies, implies_true, and_true]
  decide

/-- `BitCountIsCappedSilently`: the cap itself and the largest count. -/
theorem witness_large_counts : 128 ≤ (128 : BitVec 16).toNat ∧ 128 ≤ (0xFFFF : BitVec 16).toNat := by decide

/-- `TransmitAppendsOneTransaction`: an empty train and a full buffer. -/
theorem witness_train_fits :
    (Block.reset.pulseLen.toNat ≤ Block.reset.pulse.length ∧ Block.reset.pulseLen.toNat ≤ 258) ∧
    (258 : Word).toNat ≤ (List.replicate 258 (7 : Duration)).length := by decide +kernel

/-- `TransmitSendsTheLastSerializedTrain`: a carrier written after SERIALIZE leaves the buffers alone. -/
theorem witness_train_kept :
    ∃ t, exec .serialize State.reset = .next t ∧
      (t.withBlock { t.block with carrierKhz := 40 }).block.pulse = t.block.pulse ∧
      (t.withBlock { t.block with carrierKhz := 40 }).block.pulseLen = t.block.pulseLen ∧
      (t.withBlock { t.block with carrierKhz := 40 }).block.carrierHz = t.block.carrierHz :=
  ⟨_, rfl, rfl, rfl, rfl⟩

/-- `StepKeepsTheInvariant`: a state that meets it and takes a step. -/
theorem witness_invariant_step :
    (State.reset.withFetchWord 32 3).Inv ∧ ∃ t, step (State.reset.withFetchWord 32 3) = .next t :=
  ⟨by decide +kernel, _, rfl⟩

/-- `IllIsSticky`: a step that sets ILL, and one that clears it. -/
theorem witness_ill_changes :
    (∃ t, step (State.reset.withFetchWord 32 5) = .next t ∧
      State.reset.block.status.getLsbD 0 = false ∧ t.block.status.getLsbD 0 = true) ∧
    (∃ t, step ((State.reset.withBlock Block.reset.setIll).withQueue [clrIll]) = .next t ∧
      Block.reset.setIll.status.getLsbD 0 = true ∧ t.block.status.getLsbD 0 = false) :=
  ⟨⟨_, rfl, by decide⟩, _, rfl, by decide⟩

/-- `WordsChangeOnlyByEncodeOrWrite`: ENCODE from reset. -/
theorem witness_words_change :
    ∃ t, step (State.reset.withFetchWord 32 1) = .next t ∧ t.block.word ≠ State.reset.block.word :=
  ⟨_, rfl, by decide⟩

/-- `TrainChangesOnlyBySerialize`: SERIALIZE of two data bits. -/
theorem witness_train_changes :
    ∃ t, step ((State.reset.withBlock (smallBlock ⟨1, 0, 0, 0⟩ 2)).withQueue [cmd .serialize]) = .next t ∧
      t.block.pulseLen ≠ (smallBlock ⟨1, 0, 0, 0⟩ 2).pulseLen :=
  ⟨_, rfl, by decide⟩

/-- `ConfigurationChangesOnlyByItsWriters`: a write to SERCFG, which is no LOAD_PRESET and no reset. -/
theorem witness_configuration_changes :
    (∃ t, step (State.reset.withQueue [wr .sercfg 5]) = .next t ∧ t.block.sercfg ≠ State.reset.block.sercfg) ∧
    (wr .sercfg 5).input HostParams.initial ≠ .reset ∧
    ∀ hv fb, (wr .sercfg 5).input HostParams.initial ≠ .access (.write 0x000 4 (encode (.loadPreset hv fb))) :=
  ⟨⟨_, rfl, by decide⟩, by decide, fun hv fb => by cases hv <;> cases fb <;> decide⟩

/-- `SinkGrowsOnlyByTransmit`: TRANSMIT from reset. -/
theorem witness_sink_grows :
    ∃ t, step (State.reset.withFetchWord 32 3) = .next t ∧ t.sink ≠ State.reset.sink :=
  ⟨_, rfl, by decide⟩

/-- `RequestMergesAndSnapshots`: a request that leaves power on, and one that leaves it off. -/
theorem witness_request_power :
    (merge { powerOn := some true } Climate.initial).powerOn = true ∧
    (merge { powerOn := none } Climate.initial).powerOn = false := by decide

/-- `RequestReachesTheSink`: the host at reset. -/
theorem witness_request_reaches :
    State.reset.host.params.sinkAttached = true ∧ State.reset.host.params.retransmit = none := by decide

end Sys2Proof.Tests
end

section
/-! The command words of R84 and R86: which words are legal, what the decoder answers outside them, and what an illegal
word does. -/

namespace Sys2Proof.Proofs

open Sys2Proof.Machine Sys2Proof.Laws

/-! The fields the decoder looks at, as arithmetic on the word. -/

theorem opField_toNat (v : Word) : (opField v).toNat = v.toNat % 256 := by
  simp [opField]

/-- The bits of a word from bit `k` up are all 0 exactly when the word is below `2 ^ k`. -/
theorem extractLsb'_top_eq_zero_iff (v : Word) {k m : Nat} (hkm : k + m = 32) :
    v.extractLsb' k m = 0 ↔ v.toNat / 2 ^ k = 0 := by
  have hlt : v.toNat / 2 ^ k < 2 ^ m := by
    apply Nat.div_lt_of_lt_mul
    rw [← pow_add, hkm]
    exact v.isLt
  rw [← BitVec.toNat_inj, BitVec.extractLsb'_toNat, Nat.shiftRight_eq_div_pow, Nat.mod_eq_of_lt hlt]
  rfl

/-- The opcodes of format Z are 0x00-0x03. -/
theorem zCommand_isSome_iff (op : Byte) : (zCommand op).isSome = true ↔ op.toNat ≤ 3 := by
  revert op
  decide

theorem zCommand_eq_none {op : Byte} (h : 4 ≤ op.toNat) : zCommand op = none := by
  rw [← Option.not_isSome_iff_eq_none, zCommand_isSome_iff]
  omega

/-! The three groups of R86, and that they are all the words outside the table of R84. -/

/-- A word of one of R86's three groups, told from its value alone. -/
def IllegalWord (v : Word) : Prop :=
  5 ≤ v.toNat % 256 ∨ (v.toNat % 256 ≤ 3 ∧ v.toNat / 256 ≠ 0) ∨ (v.toNat % 256 = 4 ∧ v.toNat / 1024 ≠ 0)

theorem decode_reservedOp {v : Word} (h : 5 ≤ v.toNat % 256) : decode v = .illegal .reservedOp := by
  have hz : zCommand (opField v) = none := zCommand_eq_none (by rw [opField_toNat]; omega)
  have h4 : opField v ≠ 0x04 := by
    intro hop
    have : v.toNat % 256 = 4 := (opField_toNat v).symm.trans (congrArg BitVec.toNat hop)
    omega
  simp only [decode, hz, if_neg h4]

theorem decode_operandBitsInZ {v : Word} (hz : v.toNat % 256 ≤ 3) (hb : v.toNat / 256 ≠ 0) :
    decode v = .illegal .operandBitsInZ := by
  obtain ⟨i, hi⟩ : ∃ i, zCommand (opField v) = some i :=
    Option.isSome_iff_exists.mp ((zCommand_isSome_iff _).mpr (by rwa [opField_toNat]))
  have hb' : v.extractLsb' 8 24 ≠ 0 := mt (extractLsb'_top_eq_zero_iff v rfl).mp hb
  simp only [decode, hi, if_neg hb']

theorem decode_reservedBitsInP {v : Word} (hp : v.toNat % 256 = 4) (hb : v.toNat / 1024 ≠ 0) :
    decode v = .illegal .reservedBitsInP := by
  have h4 : opField v = 0x04 := BitVec.eq_of_toNat_eq ((opField_toNat v).trans hp)
  have hz : zCommand 0x04 = none := rfl
  have hb' : v.extractLsb' 10 22 ≠ 0 := mt (extractLsb'_top_eq_zero_iff v rfl).mp hb
  simp only [decode, h4, hz, if_pos, if_neg hb']

/-- The decoder answers ILLEGAL on each of R86's groups. -/
theorem decode_of_illegalWord {v : Word} (h : IllegalWord v) : ∃ g, decode v = .illegal g := by
  rcases h with hop | ⟨hz, hb⟩ | ⟨hp, hb⟩
  · exact ⟨_, decode_reservedOp hop⟩
  · exact ⟨_, decode_operandBitsInZ hz hb⟩
  · exact ⟨_, decode_reservedBitsInP hp hb⟩

/-- R86's groups are exactly the words that R84's table does not list. -/
theorem illegalWord_iff_notMem_legalWords (v : Word) : IllegalWord v ↔ v ∉ legalWords := by
  simp only [IllegalWord, legalWords, List.mem_cons, List.not_mem_nil, or_false, not_or, ← BitVec.toNat_inj,
    BitVec.ofNat_eq_ofNat, BitVec.toNat_ofNat]
  omega

/-- Settles O16: the eight words are decoded one by one, and a word outside them is in one of R86's groups. -/
theorem eightLegalWordsAndNoOther : Obligations.EightLegalWordsAndNoOther := by
  unfold Obligations.EightLegalWordsAndNoOther
  refine ⟨by decide, by decide, by decide, by decide, by decide, by decide, by decide, by decide, ?_⟩
  intro v hv
  exact decode_of_illegalWord ((illegalWord_iff_notMem_legalWords v).mpr hv)

/-! What an illegal word does (R86, R231). -/

/-- A CMD write of an illegal word is one step, IllegalCommand with the write's completion noted. -/
theorem step_write_cmd_illegal {v : Word} {g : IllegalGroup} (s : State) (rest : List HostEvent)
    (h : decode v = .illegal g) :
    step (s.withQueue (.access (.write 0x000 4 v) :: rest)) =
      .next ((raiseIllegalCommand (s.withQueue rest)).answer .written) := by
  rw [step_cons, eventEffect_of_access, accessEffect_write _ _ (by decide), writeEffect_illegal _ h]

/-- `setIll` sets bit 0 of STATUS. -/
theorem setIll_status_getLsbD_zero (b : Block) : b.setIll.status.getLsbD 0 = true := by
  simp

/-- `setIll` leaves the other bits of STATUS. -/
theorem setIll_status_getLsbD_pos (b : Block) {i : Nat} (hi : 1 ≤ i) :
    b.setIll.status.getLsbD i = b.status.getLsbD i := by
  have h1 : (1 : Word).getLsbD i = false := by
    simp [BitVec.getLsbD_one, Nat.ne_of_gt hi]
  simp only [setIll_status, BitVec.getLsbD_or, h1, Bool.or_false]

/-- `setIll` leaves every part of the block but STATUS. -/
theorem setIll_frame (b : Block) : { b.setIll with status := b.status } = b := rfl

/-- Settles O20: the word decodes to ILLEGAL, so the step is IllegalCommand, which only sets STATUS bit 0. -/
theorem illegalWordOnlySetsIll : Obligations.IllegalWordOnlySetsIll := by
  unfold Obligations.IllegalWordOnlySetsIll
  intro s rest v hv
  obtain ⟨g, hg⟩ := decode_of_illegalWord (v := v) hv
  refine ⟨_, step_write_cmd_illegal s rest hg, ?_⟩
  exact ⟨setIll_status_getLsbD_zero s.block, fun _ => setIll_status_getLsbD_pos s.block, setIll_frame s.block,
    rfl, rfl, rfl, rfl, rfl⟩

end Sys2Proof.Proofs
end

section
/-! What ENCODE writes (R100-R111): the three frame words and the checksum as numbers, from the bits of REQ. -/

namespace Sys2Proof.Proofs

open Sys2Proof.Machine Sys2Proof.Laws

/-- ENCODE completes with the frame of REQ in WORD (R100). -/
theorem exec_encode (s : State) :
    exec .encode s = .next (s.withBlock (s.block.withWord (encodeFrame s.block.req))) := rfl

/-! The fields of REQ as arithmetic on the word (R24). -/

theorem extractLsb'_toNat_eq_div_mod (v : Word) (k m : Nat) : (v.extractLsb' k m).toNat = v.toNat / 2 ^ k % 2 ^ m := by
  rw [BitVec.extractLsb'_toNat, Nat.shiftRight_eq_div_pow]

theorem reqFields_mode_toNat (r : Word) : (reqFields r).mode.toNat = r.toNat / 2 % 8 :=
  extractLsb'_toNat_eq_div_mod r 1 3

theorem reqFields_fan_toNat (r : Word) : (reqFields r).fan.toNat = r.toNat / 16 % 4 :=
  extractLsb'_toNat_eq_div_mod r 4 2

theorem reqFields_vane_toNat (r : Word) : (reqFields r).vane.toNat = r.toNat / 64 % 8 :=
  extractLsb'_toNat_eq_div_mod r 6 3

/-! W0: the temperature and the vane (R101-R106). -/

/-- The clamp in the other order of its bounds, which is the same as 16.0 is below 30.0 (R102). -/
theorem normaliseTemp_eq_clamp (tvalid : Bool) (temp : BitVec 16) :
    normaliseTemp tvalid temp = max (16 * 256) (min (30 * 256) (if tvalid then temp.toInt else 24 * 256)) := by
  cases tvalid
  · rfl
  · simp only [normaliseTemp, if_true]
    omega

/-- Bit 7 is the half-degree of the fraction, for negative numbers too (R103). -/
theorem halfDeg_eq_decide (t : Int) : halfDeg t = decide (128 ≤ t % 256) := by
  rw [halfDeg, BitVec.getLsbD, BitVec.toNat_ofInt, Nat.testBit_eq_decide_div_mod_eq, decide_eq_decide]
  omega

theorem normaliseVane_toNat (c : BitVec 3) : (normaliseVane c).toNat = if c.toNat = 7 then 3 else c.toNat := by
  revert c
  decide

/-- W0 as a number, for the temperatures that normalisation leaves (R106). -/
theorem word0_toNat {full : Int} (half : Bool) (vane : BitVec 3) (lr : Bool) (lo : 16 ≤ full) (hi : full ≤ 30) :
    ((word0 full half vane lr).toNat : Int) =
      (if half then 0x80 * 2 ^ 24 else 0) + (if lr then 0 else 0xE0 * 2 ^ 16) +
        (8 * full - 57 + vane.toNat - 7) * 2 ^ 8 + 0xC3 := by
  have hbyte := tempByte_toNat (v := vane) lo hi
  have hhalf : (if half then 0x80 else 0x00 : Byte).toNat = if half then 0x80 else 0 := by cases half <;> rfl
  have hlr : (if lr then 0x00 else 0xE0 : Byte).toNat = if lr then 0 else 0xE0 := by cases lr <;> rfl
  have hlast : (0xC3 : Byte).toNat = 0xC3 := rfl
  rw [word0, packWord_toNat, hhalf, hlr, hlast]
  split <;> split <;> omega

/-- Settles O23: W0 of the normalised temperature and vane, each as the statement computes it. -/
theorem encodeWordZero : Obligations.EncodeWordZero := by
  unfold Obligations.EncodeWordZero
  intro s r asked temp vane
  have htemp : normaliseTemp (reqFields r).tvalid (reqFields r).temp = temp := normaliseTemp_eq_clamp _ _
  have hvane : (normaliseVane (reqFields r).vane).toNat = vane := by
    rw [normaliseVane_toNat, reqFields_vane_toNat]
  have hw0 : (encodeFrame r).w0 =
      word0 (fullDeg temp) (halfDeg temp) (normaliseVane (reqFields r).vane) (r.getLsbD 9) := by
    rw [← htemp]
    rfl
  obtain ⟨lo, hi⟩ : 4096 ≤ temp ∧ temp ≤ 7680 := htemp ▸ normaliseTemp_range _ _
  obtain ⟨flo, fhi⟩ := fullDeg_range lo hi
  refine ⟨_, exec_encode s, ?_⟩
  rw [withBlock_block, withWord_word, hw0, word0_toNat _ _ _ flo fhi, hvane]
  simp only [halfDeg_eq_decide, decide_eq_true_eq, fullDeg]

/-! W1: the mode and fan selectors (R107, R108). -/

theorem modeSelector_normaliseMode (c : BitVec 3) :
    (modeSelector (normaliseMode c)).toNat =
      if c.toNat = 1 then 0x80 else if c.toNat = 2 then 0x40 else if c.toNat = 3 then 0xC0
      else if c.toNat = 4 then 0x00 else 0x20 := by
  revert c
  decide

theorem fanSelector_fanOfCode (c : BitVec 2) :
    (fanSelector (fanOfCode c)).toNat =
      if c.toNat = 0 then 0xA0 else if c.toNat = 1 then 0x60 else if c.toNat = 2 then 0x40 else 0x20 := by
  revert c
  decide

/-- The selector leaves the flag bits 0, so the flags add to it (R107). -/
theorem modeSelector_or_flags (m : Mode) (health sleep : Bool) :
    (modeSelector m ||| (if health then 0x10 else 0x00) ||| (if sleep then 0x04 else 0x00)).toNat =
      (modeSelector m).toNat + (if health then 0x10 else 0) + (if sleep then 0x04 else 0) := by
  cases m <;> cases health <;> cases sleep <;> rfl

theorem word1_toNat (m : Mode) (f : Fan) (health sleep : Bool) :
    (word1 m f health sleep).toNat =
      ((modeSelector m).toNat + (if health then 0x10 else 0) + (if sleep then 0x04 else 0)) * 2 ^ 16
        + (fanSelector f).toNat := by
  rw [word1, packWord_toNat, modeSelector_or_flags]
  simp

/-- Settles O24: W1 of the normalised mode and of the fan, with the selectors by their codes. -/
theorem encodeWordOne : Obligations.EncodeWordOne := by
  unfold Obligations.EncodeWordOne
  intro s r mode fan selector fanByte
  have hw1 : (encodeFrame r).w1 = word1 (normaliseMode (reqFields r).mode) (fanOfCode (reqFields r).fan)
      (r.getLsbD 10) (r.getLsbD 11) := rfl
  refine ⟨_, exec_encode s, ?_⟩
  rw [withBlock_block, withWord_word, hw1, word1_toNat, modeSelector_normaliseMode, fanSelector_fanOfCode,
    reqFields_mode_toNat, reqFields_fan_toNat]

/-! W2: the power, the mode and the timer (R109, R110). -/

theorem encodeFrame_w2 (r : Word) :
    (encodeFrame r).w2 =
      word2 (r.getLsbD 0) (normaliseMode (reqFields r).mode) (r.getLsbD 10) (r.getLsbD 12) := rfl

theorem normaliseMode_eq_heat_iff (c : BitVec 3) : normaliseMode c = .heat ↔ c.toNat = 1 := by
  revert c
  decide

theorem modeClass_normaliseMode (c : BitVec 3) :
    (modeClass (normaliseMode c)).toNat = if 2 ≤ c.toNat ∧ c.toNat ≤ 4 then 0x06 else 0x02 := by
  revert c
  decide

/-- W2.b2 as a number: the health bit is 0 in both bases, so it adds to them (R110). -/
theorem miscByte_toNat (m : Mode) (health timer : Bool) :
    (miscByte m health timer).toNat =
      if m = .heat ∧ timer then 0x60
      else (if m = .heat then 0x30 else 0x20) + (if health then 0x02 else 0x00) := by
  cases m <;> cases health <;> cases timer <;> rfl

theorem word2_on_toNat (m : Mode) (health timer : Bool) :
    (word2 true m health timer).toNat = (modeClass m).toNat * 2 ^ 24 + (miscByte m health timer).toNat * 2 ^ 8 := by
  rw [word2, if_pos rfl, packWord_toNat]
  simp

/-- Settles O26: W2 with power on, its two bytes by the code of the normalised mode. -/
theorem encodeWordTwoPowerOn : Obligations.EncodeWordTwoPowerOn := by
  unfold Obligations.EncodeWordTwoPowerOn
  intro s hpower r mode b0 b2
  refine ⟨_, exec_encode s, ?_⟩
  rw [withBlock_block, withWord_word, encodeFrame_w2, hpower, word2_on_toNat, modeClass_normaliseMode, miscByte_toNat]
  simp only [normaliseMode_eq_heat_iff, reqFields_mode_toNat]
  rfl

/-- Settles O25: with power off `word2` looks at nothing else. -/
theorem encodeWordTwoPowerOff : Obligations.EncodeWordTwoPowerOff := by
  unfold Obligations.EncodeWordTwoPowerOff
  intro s hpower
  refine ⟨_, exec_encode s, ?_⟩
  rw [withBlock_block, withWord_word, encodeFrame_w2, hpower]
  rfl

/-! The checksum (R111). -/

/-- The sum of the bytes of a frame word. -/
theorem wordBytes_sum (w : Word) :
    ((wordBytes w).map BitVec.toNat).sum =
      w.toNat / 2 ^ 24 + w.toNat / 2 ^ 16 % 256 + w.toNat / 2 ^ 8 % 256 + w.toNat % 256 := by
  have := w.isLt
  simp only [wordBytes, List.map_cons, List.map_nil, List.sum_cons, List.sum_nil, extractLsb'_toNat_eq_div_mod]
  omega

theorem checksum_toNat (w0 w1 w2 : Word) :
    (checksum w0 w1 w2).toNat =
      ([w0, w1, w2].map fun w => ((wordBytes w).map BitVec.toNat).sum).sum % 256 := by
  simp [checksum]

theorem encodeFrame_w3 (r : Word) :
    (encodeFrame r).w3 = (checksum (encodeFrame r).w0 (encodeFrame r).w1 (encodeFrame r).w2).setWidth 32 := rfl

/-- Settles O27: W3 is the checksum zero-extended, and the checksum adds the bytes word by word. -/
theorem encodeChecksum : Obligations.EncodeChecksum := by
  unfold Obligations.EncodeChecksum
  intro s
  refine ⟨_, exec_encode s, ?_⟩
  rw [withBlock_block, withWord_word, encodeFrame_w3, BitVec.toNat_setWidth_of_le (by decide), checksum_toNat]
  simp only [wordBytes_sum]

end Sys2Proof.Proofs
end

section
/-! What SERIALIZE and TRANSMIT do (R150-R158, R165): the raw train by its bits, the carrier, and the transaction. -/

namespace Sys2Proof.Proofs

open Sys2Proof.Machine Sys2Proof.Laws

/-- SERIALIZE completes with the padded train, its length and the carrier (R157, R158). -/
theorem exec_serialize (s : State) :
    exec .serialize s = .next (s.withBlock (s.block.withTrain (padTrain (train s.block))
      (BitVec.ofNat 32 (train s.block).length) (carrierInHz s.block.carrierKhz))) := rfl

/-- TRANSMIT completes with one more transaction (R165). -/
theorem exec_transmit (s : State) : exec .transmit s = .next (s.emit (transaction s.block)) := rfl

/-! The raw train from the registers (R152, R153). -/

/-- BITCOUNT as arithmetic on SERCFG, and its cap (R152). -/
theorem cappedCount_eq_min (c : Word) : cappedCount c = min (c.toNat % 2 ^ 16) 128 := by
  rw [cappedCount, bitCountField, extractLsb'_toNat_eq_div_mod, pow_zero, Nat.div_one]

/-- The low and the high half of a timing register (R28). -/
theorem pairOf_eq_halves (w : Word) :
    pairOf w = [BitVec.ofNat 16 (w.toNat % 2 ^ 16), BitVec.ofNat 16 (w.toNat / 2 ^ 16)] := by
  have hmark : markOf w = BitVec.ofNat 16 (w.toNat % 2 ^ 16) := by
    apply BitVec.eq_of_toNat_eq
    rw [markOf, extractLsb'_toNat_eq_div_mod, BitVec.toNat_ofNat, Nat.mod_mod, pow_zero, Nat.div_one]
  have hspace : spaceOf w = BitVec.ofNat 16 (w.toNat / 2 ^ 16) := by
    apply BitVec.eq_of_toNat_eq
    rw [spaceOf, extractLsb'_toNat_eq_div_mod, BitVec.toNat_ofNat]
  rw [pairOf, hmark, hspace]

/-- `WORD[i]` as an entry of the list of the four words, 0 past them (R30). -/
theorem get_eq_getD (w : WordBuf) (i : Nat) : w.get i = [w.w0, w.w1, w.w2, w.w3].getD i 0 :=
  match i with
  | 0 | 1 | 2 | 3 => rfl
  | _ + 4 => rfl

/-- The bit order only chooses which bit of the word is read (R153). -/
theorem dataBit_eq_getLsbD (msb : Bool) (w : WordBuf) (i : Nat) :
    dataBit msb w i =
      ([w.w0, w.w1, w.w2, w.w3].getD (i / 32) 0).getLsbD (if msb then 31 - i % 32 else i % 32) := by
  rw [← get_eq_getD]
  cases msb <;> rfl

/-- The length of a train is held in PULSE_LEN without a wrap (R157). -/
theorem ofNat_train_length_toNat (b : Block) : (BitVec.ofNat 32 (train b).length).toNat = (train b).length := by
  have := train_length_le b
  rw [BitVec.toNat_ofNat, Nat.mod_eq_of_lt (by omega)]

/-- Settles O35: the statement's train is `train`, and the buffer holds it padded. -/
theorem serializeBuildsTheTrain : Obligations.SerializeBuildsTheTrain := by
  unfold Obligations.SerializeBuildsTheTrain
  intro s b n words bit pair raw p
  have hn : cappedCount b.sercfg = n := cappedCount_eq_min _
  have hpair (i : Nat) : pairOf (if dataBit (msbField b.sercfg) b.word i then b.one else b.zero) =
      if bit i then pair b.one else pair b.zero := by
    rw [pairOf_eq_halves, dataBit_eq_getLsbD]
    exact apply_ite pair (bit i = true) b.one b.zero
  have hraw : rawTrain b = raw := by
    rw [rawTrain, hn, pairOf_eq_halves, List.flatMap_def, List.map_congr_left fun i _ => hpair i]
  have htrain : train b = p := by rw [train, hraw]
  refine ⟨_, exec_serialize s, ?_⟩
  rw [← htrain]
  exact ⟨padTrain_length (train_length_le b), train_length_le b, ofNat_train_length_toNat b, padTrain_getD (train b)⟩

/-! The carrier (R158). -/

/-- KHZ as arithmetic on CARRIER_KHZ (R27). -/
theorem khzField_toNat (w : Word) : (khzField w).toNat = w.toNat % 2 ^ 16 := by
  rw [khzField, extractLsb'_toNat_eq_div_mod, pow_zero, Nat.div_one]

/-- Settles O36: the product is `carrierInHz`, and a 16-bit field bounds it. -/
theorem serializeConvertsTheCarrier : Obligations.SerializeConvertsTheCarrier := by
  unfold Obligations.SerializeConvertsTheCarrier
  intro s
  refine ⟨_, exec_serialize s, ?_⟩
  rw [withBlock_block, withTrain_carrierHz, carrierInHz_toNat, khzField_toNat]
  omega

/-! The transaction (R165). -/

/-- The first `n` entries of a list that has as many, read one by one. -/
theorem take_eq_map_getD {α : Type} (l : List α) (d : α) {n : Nat} (h : n ≤ l.length) :
    l.take n = (List.range n).map fun k => l.getD k d := by
  apply List.ext_getElem
  · simpa using h
  · intro k hk _
    have hkl : k < l.length := (List.length_take_le' n l).trans_lt' hk
    simp [hkl]

/-- LEN is the whole of a PULSE_LEN within the buffer (R31). -/
theorem lenField_toNat {w : Word} (h : w.toNat ≤ 258) : (lenField w).toNat = w.toNat := by
  rw [lenField, extractLsb'_toNat_eq_div_mod, pow_zero, Nat.div_one]
  omega

/-- Settles O44: the entries that `transaction` takes are the first PULSE_LEN ones. -/
theorem transmitAppendsOneTransaction : Obligations.TransmitAppendsOneTransaction := by
  unfold Obligations.TransmitAppendsOneTransaction
  refine ⟨by decide, ?_⟩
  intro s hfits hlen
  rw [exec_transmit, transaction, lenField_toNat hlen, take_eq_map_getD _ 0 hfits]
  rfl

end Sys2Proof.Proofs
end

section
/-! What the control commands do (R180-R184): NOP, and LOAD_PRESET with the words and the register values of its presets. -/

namespace Sys2Proof.Proofs

open Sys2Proof.Machine Sys2Proof.Laws

/-! NOP (R180). -/

/-- NOP completes with the state as it was (R180). -/
theorem exec_nop (s : State) : exec .nop s = .next s := rfl

/-- An illegal word is no command (R85). -/
theorem decode_ne_instr_of_illegal {v : Word} {g : IllegalGroup} (h : decode v = .illegal g) (i : Instr) :
    decode v ≠ .instr i := by
  rw [h]
  exact Decoded.noConfusion

/-- Settles O22: 0x00000100 has NOP's opcode with an operand bit set, which is one of R86's groups. -/
theorem nopChangesNothing : Obligations.NopChangesNothing := by
  unfold Obligations.NopChangesNothing
  have hword : decode 0x00000000 = .instr .nop := by decide
  have hillegal : decode 0x00000100 = .illegal .operandBitsInZ := decode_operandBitsInZ (by decide) (by decide)
  exact ⟨hword, decode_ne_instr_of_illegal hillegal, exec_nop⟩

/-! LOAD_PRESET (R182). -/

/-- LOAD_PRESET completes with the five registers at the preset's values (R182). -/
theorem exec_loadPreset (hv : HeaderVariant) (fb : FrameBits) (s : State) :
    exec (.loadPreset hv fb) s = .next (s.withBlock
      (s.block.withTiming presetKhz (presetHdr hv) presetOne presetZero (presetSercfg fb))) := rfl

/-! The register values of the presets (R183). -/

theorem presetKhz_eq : presetKhz = 0x00000026 := rfl

theorem presetHdr_eq (hv : HeaderVariant) :
    presetHdr hv = match hv with | .h8950 => 0x116222F6 | .h9000 => 0x11942328 := by
  cases hv
  case h8950 => decide
  case h9000 => decide

theorem presetOne_eq : presetOne = 0x06720226 := by decide

theorem presetZero_eq : presetZero = 0x02260226 := by decide

theorem presetSercfg_eq (fb : FrameBits) :
    presetSercfg fb = match fb with | .bits104 => 0x00000068 | .bits105 => 0x00000069 := by
  cases fb
  case bits104 => decide
  case bits105 => decide

/-- Settles O47: the words are the four of R84's table, and the registers take the values of R183. -/
theorem loadPresetLeavesThePreset : Obligations.LoadPresetLeavesThePreset := by
  unfold Obligations.LoadPresetLeavesThePreset
  intro s hv fb
  constructor
  · obtain ⟨-, -, -, -, h8950_104, h9000_104, h8950_105, h9000_105, -⟩ := eightLegalWordsAndNoOther
    match hv, fb with
    | .h8950, .bits104 => exact h8950_104
    | .h9000, .bits104 => exact h9000_104
    | .h8950, .bits105 => exact h8950_105
    | .h9000, .bits105 => exact h9000_105
  · rw [exec_loadPreset, presetKhz_eq, presetHdr_eq, presetOne_eq, presetZero_eq, presetSercfg_eq]
    rfl

end Sys2Proof.Proofs
end

section
/-! A climate request: the merge into S, the LKG snapshot and the effective state of the new records (R202, R203). -/

namespace Sys2Proof.Proofs

open Sys2Proof.Machine Sys2Proof.Laws

/-! LKG after a merge, and the effective state, by the power of S (R203). -/

theorem updateLkg_of_on {c : Climate} (l : Snapshot) (h : c.powerOn = true) :
    updateLkg c l = ⟨c.mode, c.temperature, c.fan, c.swing⟩ := if_pos h

theorem updateLkg_of_off {c : Climate} (l : Snapshot) (h : c.powerOn = false) : updateLkg c l = l := by
  simp [updateLkg, h]

theorem effective_of_on {c : Climate} (l : Snapshot) (h : c.powerOn = true) : effective c l = c := if_pos h

theorem effective_of_off {c : Climate} (l : Snapshot) (h : c.powerOn = false) :
    effective c l = ⟨false, l.mode, l.temperature, l.fan, l.swing, c.health, c.sleep, c.timerOn⟩ := by
  simp [effective, h]

/-! What taking up a request leaves in the host's records. -/

@[simp] theorem reportSink_climate (s : State) : (reportSink s).host.climate = s.host.climate := by
  unfold reportSink
  split <;> rfl

@[simp] theorem reportSink_lkg (s : State) : (reportSink s).host.lkg = s.host.lkg := by
  unfold reportSink
  split <;> rfl

@[simp] theorem takeControl_climate (r : ControlRequest) (s : State) :
    (takeControl r s).host.climate = merge r s.host.climate := by
  simp [takeControl]

@[simp] theorem takeControl_lkg (r : ControlRequest) (s : State) :
    (takeControl r s).host.lkg = updateLkg (merge r s.host.climate) s.host.lkg := by
  simp [takeControl]

@[simp] theorem takeControl_params (r : ControlRequest) (s : State) :
    (takeControl r s).host.params = s.host.params := by
  simp [takeControl]

/-- A request at the front of the queue is taken up in one step that completes (R202). -/
theorem step_control (s : State) (rest : List HostEvent) (r : ControlRequest) :
    step (s.withQueue (.control r :: rest)) = .next (takeControl r (s.withQueue rest)) := by
  rw [step_cons, eventEffect_of_control]

/-- Settles O56: the step is `takeControl`, whose records are the merge and `updateLkg` of it; the rest is the power of
the merged S. -/
theorem requestMergesAndSnapshots : Obligations.RequestMergesAndSnapshots := by
  unfold Obligations.RequestMergesAndSnapshots
  intro s rest r c
  have hclimate : (takeControl r (s.withQueue rest)).host.climate = c := takeControl_climate _ _
  have hlkg : (takeControl r (s.withQueue rest)).host.lkg = updateLkg c s.host.lkg := takeControl_lkg _ _
  refine ⟨_, step_control s rest r, takeControl_block _ _, takeControl_sink _ _, hclimate, takeControl_params _ _, ?_⟩
  rw [hclimate, hlkg]
  refine ⟨updateLkg_of_on _, updateLkg_of_off _, effective_of_on _, fun hoff => ?_⟩
  rw [updateLkg_of_off _ hoff, effective_of_off _ hoff]

end Sys2Proof.Proofs
end

section
/-! Writes to the read-only registers and the reserved offsets, and reads of the reserved offsets (R234). -/

namespace Sys2Proof.Proofs

open Sys2Proof.Machine Sys2Proof.Laws

/-- From 0x030 up R21 maps nothing but PULSE_LEN, CARRIER_HZ and the PULSE window. -/
theorem readOnly_of_regAt {a : Offset} {r : Reg} (hr : regAt a = some r) (ha : a.toNat % 4 = 0)
    (hlo : 0x030 ≤ a.toNat) : r = .pulseLen ∨ r = .carrierHz ∨ ∃ k, r = .pulse k := by
  have hoff : r.offset = a := offset_of_regAt hr ha
  subst hoff
  cases r with
  | pulseLen => exact .inl rfl
  | carrierHz => exact .inr (.inl rfl)
  | pulse k => exact .inr (.inr ⟨k, rfl⟩)
  | _ => exact absurd hlo (by decide)

/-- A write from 0x030 up completes and stores nothing, whether the offset names a register or is reserved. -/
theorem writeEffect_ignored {a : Offset} (s : State) (v : Word) (ha : a.toNat % 4 = 0) (hlo : 0x030 ≤ a.toNat) :
    writeEffect a v s = .done (.next (s.answer .written)) := by
  cases hr : regAt a with
  | none => exact writeEffect_reserved s v hr
  | some r =>
    obtain rfl | rfl | ⟨k, rfl⟩ := readOnly_of_regAt hr ha hlo
    all_goals
      rw [writeEffect_register s v hr nofun]
      rfl

theorem readOffset_reserved {a : Offset} (b : Block) (h : regAt a = none) : readOffset b a = 0 := by
  simp only [readOffset, h]

/-- Settles O8: the write stores nothing from 0x030 up, and R21's reserved ranges name no register, so they read 0. -/
theorem readOnlyAndReservedWritesIgnored : Obligations.ReadOnlyAndReservedWritesIgnored := by
  unfold Obligations.ReadOnlyAndReservedWritesIgnored
  intro s rest a ha hlo
  constructor
  · intro v
    rw [step_cons, eventEffect_of_access, accessEffect_write _ _ ha, writeEffect_ignored _ _ ha hlo]
    rfl
  · intro hres
    rw [step_cons, eventEffect_of_access, accessEffect_read _ ha, readOffset_reserved _ (regAt_reserved hres)]
    rfl

end Sys2Proof.Proofs
end

section
/-! The state right after reset (R261, R204). -/

namespace Sys2Proof.Proofs

open Sys2Proof.Machine Sys2Proof.Laws

/-- R22: CMD stores nothing, so it reads 0 in every block, not only after reset. -/
theorem readOffset_cmd (b : Block) : readOffset b 0x000 = 0 := by
  have hcmd : regAt 0x000 = some .cmd := regAt_offset_cmd
  simp only [readOffset, hcmd, readReg]

/-- Settles O1: CMD reads 0 in any block; the stored registers, the sink and the host's records are fields of
`State.reset`, which gives each as the literal of the statement. -/
theorem resetGivesEveryStatedValue : Obligations.ResetGivesEveryStatedValue := by
  unfold Obligations.ResetGivesEveryStatedValue
  refine ⟨readOffset_cmd _, ?status, ?req, ?carrierKhz, ?hdr, ?one, ?zero, ?sercfg, ?w0, ?w1, ?w2, ?w3, ?pulse,
    ?pulseLen, ?carrierHz, ?sink, ?climate, ?lkg⟩
  all_goals rfl

end Sys2Proof.Proofs
end

section
/-! The decoder and the encoder agree both ways (R80-R86), and a CMD write of a legal word runs its command (R66, R85). -/

namespace Sys2Proof.Proofs

open Sys2Proof.Machine Sys2Proof.Laws

/-- R84's table is the words of the commands, in its order. -/
theorem legalWords_eq_map_encode :
    legalWords = [.nop, .encode, .serialize, .transmit, .loadPreset .h8950 .bits104, .loadPreset .h9000 .bits104,
      .loadPreset .h8950 .bits105, .loadPreset .h9000 .bits105].map encode := by
  decide

theorem decode_encode (i : Instr) : decode (encode i) = .instr i := by
  cases i with
  | loadPreset hv fb => cases hv <;> cases fb <;> rfl
  | _ => rfl

/-- A word that decodes to a command is in none of R86's groups, so R84's table lists it. -/
theorem mem_legalWords_of_decode {v : Word} {i : Instr} (h : decode v = .instr i) : v ∈ legalWords := by
  by_contra hv
  obtain ⟨g, hg⟩ := decode_of_illegalWord ((illegalWord_iff_notMem_legalWords v).mpr hv)
  exact decode_ne_instr_of_illegal hg i h

/-- A word decodes to the command whose word it is, and to no other. -/
theorem decode_eq_instr_iff (v : Word) (i : Instr) : decode v = .instr i ↔ v = encode i := by
  constructor
  · intro h
    have hmem := mem_legalWords_of_decode h
    rw [legalWords_eq_map_encode] at hmem
    obtain ⟨j, -, rfl⟩ := List.mem_map.mp hmem
    rw [decode_encode, Decoded.instr.injEq] at h
    rw [h]
  · rintro rfl
    exact decode_encode i

/-- Settles O17: a word that decodes is one of the eight of R84, each of which is the word of a command, and that command is
what it decodes to. -/
theorem decodeInvertsEncode : Obligations.DecodeInvertsEncode := by
  unfold Obligations.DecodeInvertsEncode
  exact decode_eq_instr_iff

/-- Settles O18: three of the words are those of R84's table, and the last has a bit above FB set. -/
theorem writtenOutWordsDecode : Obligations.WrittenOutWordsDecode := by
  unfold Obligations.WrittenOutWordsDecode
  exact ⟨decode_encode .transmit, decode_encode (.loadPreset .h9000 .bits104), decode_encode (.loadPreset .h8950 .bits105),
    decode_reservedBitsInP (by decide) (by decide)⟩

/-- A CMD write of a legal word is one step, its command with the write's completion noted first (R66). -/
theorem step_write_cmd_legal {v : Word} {i : Instr} (s : State) (rest : List HostEvent) (h : decode v = .instr i) :
    step (s.withQueue (.access (.write 0x000 4 v) :: rest)) = exec i ((s.withQueue rest).answer .written) := by
  rw [step_cons, eventEffect_of_access, accessEffect_write _ _ (by decide), writeEffect_command _ h]

/-- Settles O19: the event is a CMD write, whose effect is the decoded command. -/
theorem stepRunsTheWrittenCommand : Obligations.StepRunsTheWrittenCommand := by
  unfold Obligations.StepRunsTheWrittenCommand
  intro s rest v i h
  exact step_write_cmd_legal s rest h

end Sys2Proof.Proofs
end

section
/-! The invariant of the machine: reset meets it, and every command, register write, illegal word and reset keeps it. -/

namespace Sys2Proof.Proofs

open Sys2Proof.Machine Sys2Proof.Laws

/-! The registers' reserved bits (R21-R31). -/

theorem and_and_not_self (v m : Word) : v &&& m &&& ~~~m = 0 := by
  simp [BitVec.and_assoc]

/-- An operation that only clears bits of STATUS leaves its reserved bits clear. -/
theorem and_reserved_eq_zero {w m : Word} (v : Word) (h : w &&& m = 0) : w &&& v &&& m = 0 := by
  rw [BitVec.and_assoc, BitVec.and_comm v, ← BitVec.and_assoc, h]
  exact BitVec.zero_and

theorem setIll_reservedClear {b : Block} (h : b.reservedClear) : b.setIll.reservedClear := by
  obtain ⟨hstatus, hreq, hkhz, hser⟩ := h
  refine ⟨?_, hreq, hkhz, hser⟩
  rw [setIll_status, BitVec.and_comm, BitVec.and_or_distrib_left, BitVec.and_comm, hstatus]
  rfl

/-- A register write stores under the register's mask, or changes no register that has reserved bits. -/
theorem writeReg_reservedClear {b : Block} (v : Word) (r : Reg) (h : b.reservedClear) :
    (writeReg b v r).reservedClear := by
  obtain ⟨hstatus, hreq, hkhz, hser⟩ := h
  cases r with
  | status =>
    refine ⟨?_, hreq, hkhz, hser⟩
    rw [writeReg, writeStatus_status]
    split
    · exact and_reserved_eq_zero _ hstatus
    · exact hstatus
  | req => exact ⟨hstatus, and_and_not_self v reqMask, hkhz, hser⟩
  | carrierKhz => exact ⟨hstatus, hreq, and_and_not_self v carrierKhzMask, hser⟩
  | sercfg => exact ⟨hstatus, hreq, hkhz, and_and_not_self v sercfgMask⟩
  | _ => exact ⟨hstatus, hreq, hkhz, hser⟩

/-! The PULSE buffer and the carrier (R31-R33, R157, R158). -/

/-- A register write keeps the buffer's form and the carrier, which it does not reach. -/
theorem writeReg_memory_wf {b : Block} (v : Word) (r : Reg) (h : Memory.wf b) : Memory.wf (writeReg b v r) := by
  obtain ⟨hpulse, hlen, -⟩ := writeReg_train b v r
  rwa [Memory.wf, hpulse, hlen]

theorem padTrain_take (p : List Duration) : (padTrain p).take p.length = p := List.take_left

theorem padTrain_drop (p : List Duration) :
    (padTrain p).drop p.length = List.replicate (Config.pulseCap - p.length) 0 := List.drop_left

/-- What SERIALIZE leaves in the buffer is in the canonical form. -/
theorem withTrain_memory_wf (b : Block) (hz : Word) :
    Memory.wf (b.withTrain (padTrain (train b)) (BitVec.ofNat 32 (train b).length) hz) := by
  rw [Memory.wf, withTrain_pulse, withTrain_pulseLen, ofNat_train_length_toNat, padTrain_take, padTrain_drop]
  exact ⟨padTrain_length (train_length_le b), train_length_le b, zero_notMem_train b, rfl⟩

theorem carrierInHz_possible (w : Word) : carrierPossible (carrierInHz w) := by
  have := (khzField w).isLt
  rw [carrierPossible, carrierInHz_toNat]
  omega

/-! The block as a whole. -/

theorem reset_wf : Block.reset.wf := by
  exact ⟨by decide, ⟨List.length_replicate, Nat.zero_le _, List.not_mem_nil, rfl⟩, by decide⟩

theorem setIll_wf {b : Block} (h : b.wf) : b.setIll.wf := by
  obtain ⟨hres, hmem, hhz⟩ := h
  exact ⟨setIll_reservedClear hres, hmem, hhz⟩

theorem writeReg_wf {b : Block} (v : Word) (r : Reg) (h : b.wf) : (writeReg b v r).wf := by
  obtain ⟨hres, hmem, hhz⟩ := h
  obtain ⟨-, -, hcarrier⟩ := writeReg_train b v r
  refine ⟨writeReg_reservedClear v r hres, writeReg_memory_wf v r hmem, ?_⟩
  rwa [hcarrier]

/-- What TRANSMIT hands over is a train of the buffer. -/
theorem transaction_wf {b : Block} (h : b.wf) : (transaction b).wf := by
  obtain ⟨-, ⟨-, hle, hnz, -⟩, hhz⟩ := h
  rw [Transaction.wf, transaction, lenField_toNat hle]
  exact ⟨hnz, (List.length_take_le _ _).trans hle, hhz⟩

/-! The presets are within the registers' masks (R181). -/

theorem presetKhz_reserved : presetKhz &&& ~~~carrierKhzMask = 0 := by decide

theorem presetSercfg_reserved (fb : FrameBits) : presetSercfg fb &&& ~~~sercfgMask = 0 := by
  cases fb <;> decide

/-- Every command keeps the invariant. -/
theorem exec_keeps_inv {i : Instr} {s t : State} (hs : s.Inv) (h : exec i s = .next t) : t.Inv := by
  obtain ⟨⟨hres, hmem, hhz⟩, hsink⟩ := hs
  cases i with
  | nop =>
    cases h
    exact ⟨⟨hres, hmem, hhz⟩, hsink⟩
  | encode =>
    cases h
    exact ⟨⟨hres, hmem, hhz⟩, hsink⟩
  | serialize =>
    cases h
    exact ⟨⟨hres, withTrain_memory_wf s.block _, carrierInHz_possible _⟩, hsink⟩
  | transmit =>
    cases h
    refine ⟨⟨hres, hmem, hhz⟩, List.forall_mem_append.mpr ⟨hsink, ?_⟩⟩
    exact List.forall_mem_singleton.mpr (transaction_wf ⟨hres, hmem, hhz⟩)
  | loadPreset hv fb =>
    cases h
    obtain ⟨hstatus, hreq, -, -⟩ := hres
    exact ⟨⟨⟨hstatus, hreq, presetKhz_reserved, presetSercfg_reserved fb⟩, hmem, hhz⟩, hsink⟩

/-- Settles O50: a step leaves the block and the sink, or runs a command, flags an illegal word, writes a register or resets,
and each keeps the invariant. -/
theorem stepKeepsTheInvariant : Obligations.StepKeepsTheInvariant := by
  unfold Obligations.StepKeepsTheInvariant
  rintro s t ⟨hblock, hsink⟩ hstep
  rw [State.Inv]
  obtain ⟨hb, hk⟩ | ⟨_, _, i, _, u, -, -, -, hb, hk, hexec⟩ | ⟨_, _, _, _, -, -, -, hb, hk⟩ |
    ⟨_, r, v, _, -, -, -, hb, hk⟩ | ⟨_, _, -, -, hb, hk⟩ := step_next_cases hstep
  · rw [hb, hk]
    exact ⟨hblock, hsink⟩
  · have hu : u.Inv := by
      rw [State.Inv, hb, hk]
      exact ⟨hblock, hsink⟩
    exact exec_keeps_inv hu hexec
  · rw [hb, hk]
    exact ⟨setIll_wf hblock, hsink⟩
  · rw [hb, hk]
    exact ⟨writeReg_wf v r hblock, hsink⟩
  · rw [hb, hk]
    exact ⟨reset_wf, List.forall_mem_nil _⟩

/-- Settles O49: reset's registers, buffer and carrier are 0, and its sink history is empty. -/
theorem resetMeetsTheInvariant : Obligations.ResetMeetsTheInvariant := by
  unfold Obligations.ResetMeetsTheInvariant
  exact ⟨reset_wf, List.forall_mem_nil _⟩

end Sys2Proof.Proofs
end

section
/-! The bus (R60-R72): reads and writes of the register map, wrong accesses, and that nothing else stops a step. -/

namespace Sys2Proof.Proofs

open Sys2Proof.Machine Sys2Proof.Laws

/-! Reads (R21, R33). -/

theorem readOffset_of_regAt {a : Offset} {r : Reg} (b : Block) (h : regAt a = some r) :
    readOffset b a = readReg b r := by
  simp only [readOffset, h]

/-- A timing register as a number: the space above the mark (R28). -/
theorem timingWord_toNat (m p : Duration) : (timingWord m p).toNat = 65536 * p.toNat + m.toNat := by
  have hm := congrArg BitVec.toNat (markOf_timingWord m p)
  have hp := congrArg BitVec.toNat (spaceOf_timingWord m p)
  rw [markOf, extractLsb'_toNat_eq_div_mod] at hm
  rw [spaceOf, extractLsb'_toNat_eq_div_mod] at hp
  have := (timingWord m p).isLt
  omega

/-- A window word holds two entries as a timing register holds its space and mark (R33). -/
theorem windowWord_eq_timingWord (b : Block) (k : Nat) :
    b.windowWord k = timingWord (b.pulseAt (2 * k)) (b.pulseAt (2 * k + 1)) := rfl

theorem windowWord_eq_ofNat (b : Block) (k : Nat) :
    b.windowWord k =
      BitVec.ofNat 32 (65536 * (b.pulse.getD (2 * k + 1) 0).toNat + (b.pulse.getD (2 * k) 0).toNat) := by
  calc b.windowWord k
    _ = BitVec.ofNat 32 (timingWord (b.pulseAt (2 * k)) (b.pulseAt (2 * k + 1))).toNat := by
      rw [windowWord_eq_timingWord, BitVec.ofNat_toNat, BitVec.setWidth_eq]
    _ = _ := by
      rw [timingWord_toNat]
      rfl

/-- Settles O4: each named register is found at its offset, a window word at its own, and nothing in the reserved ranges. -/
theorem registerMapReadValues : Obligations.RegisterMapReadValues := by
  unfold Obligations.RegisterMapReadValues
  intro b
  refine ⟨rfl, rfl, rfl, rfl, rfl, rfl, rfl, rfl, rfl, rfl, rfl, rfl, rfl, rfl, ?window, ?reserved⟩
  case window =>
    intro k
    exact (readOffset_of_regAt b (regAt_offset_pulse k.isLt)).trans (windowWord_eq_ofNat b k)
  case reserved =>
    intro a _ ha
    exact readOffset_reserved b (regAt_reserved ha)

/-- A legal read is one step that answers the value at its offset (R63). -/
theorem step_read (s : State) (rest : List HostEvent) {a : Offset} (ha : a.toNat % 4 = 0) :
    step (s.withQueue (.access (.read a 4) :: rest)) =
      .next ((s.withQueue rest).answer (.value (readOffset s.block a))) := by
  rw [step_cons, eventEffect_of_access, accessEffect_read _ ha]
  rfl

/-- Settles O5: the event is a legal read, whose effect is its answer alone. -/
theorem legalReadAnswersAndChangesNothing : Obligations.LegalReadAnswersAndChangesNothing := by
  unfold Obligations.LegalReadAnswersAndChangesNothing
  intro s rest a ha
  exact step_read s rest ha

/-! Writes (R63). -/

/-- A legal write to a register other than CMD is one step, which stores by `writeReg`. -/
theorem step_write_register (s : State) (rest : List HostEvent) {a : Offset} {r : Reg} (v : Word)
    (ha : a.toNat % 4 = 0) (hr : regAt a = some r) (hne : r ≠ .cmd) :
    step (s.withQueue (.access (.write a 4 v) :: rest)) =
      .next (((s.withQueue rest).withBlock (writeReg s.block v r)).answer .written) := by
  rw [step_cons, eventEffect_of_access, accessEffect_write _ _ ha, writeEffect_register _ _ hr hne]
  rfl

/-- A register write is seen by a read of no other register. -/
theorem readReg_writeReg_ne (b : Block) (v : Word) {q r : Reg} (h : q ≠ r) :
    readReg (writeReg b v r) q = readReg b q := by
  cases r with
  | cmd | pulseLen | carrierHz | pulse => rfl
  | _ => cases q <;> first | rfl | contradiction

/-- A register write is seen by a read of no other aligned offset, reserved ones included. -/
theorem readOffset_writeReg_ne (b : Block) (v : Word) {a c : Offset} {r : Reg} (hr : regAt a = some r)
    (ha : a.toNat % 4 = 0) (hc : c.toNat % 4 = 0) (hne : c ≠ a) : readOffset (writeReg b v r) c = readOffset b c := by
  cases hq : regAt c with
  | none => rw [readOffset_reserved _ hq, readOffset_reserved _ hq]
  | some q =>
    have hqr : q ≠ r := by
      rintro rfl
      exact hne ((offset_of_regAt hq hc).symm.trans (offset_of_regAt hr ha))
    rw [readOffset_of_regAt _ hq, readOffset_of_regAt _ hq, readReg_writeReg_ne b v hqr]

/-- The RW registers of R21 with the masks of their writable bits (R24, R27-R30). -/
def rwRegisters : List (Offset × Word) :=
  [(0x008, 0xFFFF3FFF), (0x00C, 0x0000FFFF), (0x010, 0xFFFFFFFF), (0x014, 0xFFFFFFFF),
    (0x018, 0xFFFFFFFF), (0x01C, 0x0001FFFF), (0x020, 0xFFFFFFFF), (0x024, 0xFFFFFFFF),
    (0x028, 0xFFFFFFFF), (0x02C, 0xFFFFFFFF)]

/-- What a RW register holds after a write: the datum under the register's mask. -/
theorem readReg_writeReg_self {a : Offset} {mask : Word} (h : (a, mask) ∈ rwRegisters) :
    ∃ r, regAt a = some r ∧ r ≠ .cmd ∧ r.offset = a ∧ ∀ b v, readReg (writeReg b v r) r = v &&& mask := by
  have hall (v : Word) : v = v &&& 0xFFFFFFFF := BitVec.and_allOnes.symm
  simp only [rwRegisters, List.mem_cons, Prod.mk.injEq, List.not_mem_nil, or_false] at h
  obtain ⟨rfl, rfl⟩ | ⟨rfl, rfl⟩ | ⟨rfl, rfl⟩ | ⟨rfl, rfl⟩ | ⟨rfl, rfl⟩ | ⟨rfl, rfl⟩ | ⟨rfl, rfl⟩ | ⟨rfl, rfl⟩ |
    ⟨rfl, rfl⟩ | ⟨rfl, rfl⟩ := h
  · exact ⟨.req, rfl, nofun, rfl, fun _ _ => rfl⟩
  · exact ⟨.carrierKhz, rfl, nofun, rfl, fun _ _ => rfl⟩
  · exact ⟨.hdr, rfl, nofun, rfl, fun _ => hall⟩
  · exact ⟨.one, rfl, nofun, rfl, fun _ => hall⟩
  · exact ⟨.zero, rfl, nofun, rfl, fun _ => hall⟩
  · exact ⟨.sercfg, rfl, nofun, rfl, fun _ _ => rfl⟩
  · exact ⟨.word0, rfl, nofun, rfl, fun _ => hall⟩
  · exact ⟨.word1, rfl, nofun, rfl, fun _ => hall⟩
  · exact ⟨.word2, rfl, nofun, rfl, fun _ => hall⟩
  · exact ⟨.word3, rfl, nofun, rfl, fun _ => hall⟩

/-- Every named register stands at a multiple of 4. -/
theorem offset_aligned (r : Reg) : r.offset.toNat % 4 = 0 := by
  cases r <;> simp [Reg.offset]

/-- Settles O6: the write stores by `writeReg`, which a read of the register sees and no other read does. -/
theorem writeReadsBackUnderItsMask : Obligations.WriteReadsBackUnderItsMask := by
  unfold Obligations.WriteReadsBackUnderItsMask
  intro s rest v a mask h
  obtain ⟨r, hr, hne, rfl, hself⟩ := readReg_writeReg_self h
  obtain ⟨hpulse, -, -⟩ := writeReg_train s.block v r
  refine ⟨_, step_write_register s rest v (offset_aligned r) hr hne, ?_, ?_, hpulse, rfl, rfl⟩
  · exact (readOffset_of_regAt _ hr).trans (hself _ _)
  · intro c hc hca
    exact readOffset_writeReg_ne s.block v hr (offset_aligned r) hc hca

/-! STATUS (R23). -/

theorem writeStatus_getLsbD_zero (b : Block) (v : Word) :
    (b.writeStatus v).status.getLsbD 0 = (b.status.getLsbD 0 && !v.getLsbD 0) := by
  rw [writeStatus_status]
  cases v.getLsbD 0 <;> simp

/-- A write to STATUS leaves the bits other than ILL. -/
theorem writeStatus_getLsbD_pos (b : Block) (v : Word) {i : Nat} (hi : 1 ≤ i) :
    (b.writeStatus v).status.getLsbD i = b.status.getLsbD i := by
  have h1 : (1 : Word).getLsbD i = false := by
    simp [BitVec.getLsbD_one, Nat.ne_of_gt hi]
  rw [writeStatus_status]
  split
  · rw [BitVec.getLsbD_and, BitVec.getLsbD_not, h1, Bool.not_false, Bool.and_true]
    exact Bool.and_eq_left_iff_imp.mpr fun hb => decide_eq_true (BitVec.lt_of_getLsbD hb)
  · rfl

/-- A write to STATUS leaves the other registers. -/
theorem writeStatus_frame (b : Block) (v : Word) : { b.writeStatus v with status := b.status } = b := rfl

/-- Settles O7: the write stores by `writeStatus`. -/
theorem statusIsWriteOneToClear : Obligations.StatusIsWriteOneToClear := by
  unfold Obligations.StatusIsWriteOneToClear
  intro s rest v
  have hstatus : regAt 0x004 = some .status := rfl
  refine ⟨_, step_write_register s rest v (by decide) hstatus nofun, ?_⟩
  exact ⟨writeStatus_getLsbD_zero s.block v, fun _ => writeStatus_getLsbD_pos s.block v, writeStatus_frame s.block v,
    rfl, rfl⟩

/-! Wrong accesses (R61, R62, R233). -/

theorem legal_eq_false_iff {a : Access} : a.legal = false ↔ a.width ≠ 4 ∨ a.addr.toNat % 4 ≠ 0 := by
  rw [← Bool.not_eq_true, legal_iff]
  omega

theorem step_access_illegal (s : State) (rest : List HostEvent) {a : Access} (h : a.legal = false) :
    step (s.withQueue (.access a :: rest)) = raiseBusError a.addr a.width (s.withQueue rest) := by
  rw [step_cons, eventEffect_of_access, accessEffect_illegal _ h]

/-- Settles O9: the access is illegal, so the step is the platform's response to BusError. -/
theorem wrongAccessIsBusError : Obligations.WrongAccessIsBusError := by
  unfold Obligations.WrongAccessIsBusError
  intro s rest a h
  rw [step_access_illegal s rest (legal_eq_false_iff.mpr h)]
  obtain ⟨habort, hr⟩ | ⟨hreport, hr⟩ := raiseBusError_cases a.addr a.width (s.withQueue rest)
  · exact ⟨fun _ => hr, fun h => absurd (habort.symm.trans h) nofun⟩
  · exact ⟨fun h => absurd (hreport.symm.trans h) nofun, fun _ => hr⟩

/-! Legal accesses complete (R72). -/

/-- Every command completes, with STATUS, REQ and the host as they were. -/
theorem exec_completes (i : Instr) (s : State) :
    ∃ t, exec i s = .next t ∧ t.block.status = s.block.status ∧ t.block.req = s.block.req ∧ t.host = s.host := by
  cases i with
  | nop => exact ⟨_, exec_nop s, rfl, rfl, rfl⟩
  | encode => exact ⟨_, exec_encode s, rfl, rfl, rfl⟩
  | serialize => exact ⟨_, exec_serialize s, rfl, rfl, rfl⟩
  | transmit => exact ⟨_, exec_transmit s, rfl, rfl, rfl⟩
  | loadPreset hv fb => exact ⟨_, exec_loadPreset hv fb s, rfl, rfl, rfl⟩

/-- Settles O21: each command is an equation that completes. -/
theorem everyCommandCompletes : Obligations.EveryCommandCompletes := by
  unfold Obligations.EveryCommandCompletes
  exact exec_completes

/-- A legal access is one step that goes on, with one answer: a read's value, or a completed write. -/
theorem step_access_legal (s : State) (rest : List HostEvent) {a : Access} (h : a.legal = true) :
    ∃ t x, step (s.withQueue (.access a :: rest)) = .next t ∧
      t.host = { s.host with queue := rest, log := s.host.log ++ [x] } ∧ (x = .written ∨ ∃ v, x = .value v) := by
  rw [step_cons]
  cases he : eventEffect (.access a) (s.withQueue rest) with
  | run i u =>
    obtain ⟨-, -, -, rfl⟩ := eventEffect_run he
    obtain ⟨t, hexec, -, -, hhost⟩ := exec_completes i ((s.withQueue rest).answer .written)
    exact ⟨t, .written, hexec, hhost, .inl rfl⟩
  | done o =>
    rw [eventEffect_of_access] at he
    obtain ⟨hl, -⟩ | ⟨addr, -, -, ho⟩ | ⟨addr, v, -, -, ⟨g, -, -, ho⟩ | ⟨r, -, -, -, ho⟩ | ⟨-, ho⟩⟩ :=
      accessEffect_done he
    · exact absurd (h.symm.trans hl) nofun
    · exact ⟨_, .value _, ho, rfl, .inr ⟨_, rfl⟩⟩
    · exact ⟨_, .written, ho, rfl, .inl rfl⟩
    · exact ⟨_, .written, ho, rfl, .inl rfl⟩
    · exact ⟨_, .written, ho, rfl, .inl rfl⟩

/-- Settles O10: a command completes, and any other legal access is finished at once. -/
theorem everyLegalAccessCompletes : Obligations.EveryLegalAccessCompletes := by
  unfold Obligations.EveryLegalAccessCompletes
  intro s rest a hwidth haligned
  exact step_access_legal s rest (legal_iff.mpr ⟨hwidth, haligned⟩)

/-! A step by what its event brings to the block (R70, R235, R260). -/

theorem step_of_input_access {e : HostEvent} {a : Access} (s : State) (rest : List HostEvent)
    (h : e.input s.host.params = .access a) :
    step (s.withQueue (e :: rest)) = step (s.withQueue (.access a :: rest)) := by
  rw [step_cons, step_cons, eventEffect_access (s := s.withQueue rest) h, eventEffect_of_access]

theorem step_of_input_reset {e : HostEvent} (s : State) (rest : List HostEvent) (h : e.input s.host.params = .reset) :
    step (s.withQueue (e :: rest)) = .next (resetBlock (s.withQueue rest)) := by
  rw [step_cons, eventEffect_reset (s := s.withQueue rest) h]

theorem step_of_input_nothing {e : HostEvent} (s : State) (rest : List HostEvent)
    (h : e.input s.host.params = .nothing) :
    step (s.withQueue (e :: rest)) = .next (hostEffect e (s.withQueue rest)) := by
  rw [step_cons, eventEffect_nothing (s := s.withQueue rest) h]

/-- A step with nothing queued changes nothing. -/
theorem step_of_queue_nil {s : State} (h : s.host.queue = []) : step s = .next s := by
  simp only [step, nextEffect, h]

theorem step_eq_of_queue {s : State} {q : List HostEvent} (h : s.host.queue = q) :
    step s = step (s.withQueue q) := by
  subst h
  rfl

/-- A step goes on, or its event is a wrong access on a platform that aborts and it faults with that access. -/
theorem step_outcome (s : State) :
    (∃ t, step s = .next t) ∨
    ∃ e rest a, s.host.queue = e :: rest ∧ e.input s.host.params = .access a ∧ a.legal = false ∧
      s.host.params.busErrorResponse = .abort ∧ step s = .fault (.busError a.addr a.width) := by
  cases hq : s.host.queue with
  | nil => exact .inl ⟨s, step_of_queue_nil hq⟩
  | cons e rest =>
    have hs : step s = step (s.withQueue (e :: rest)) := step_eq_of_queue hq
    cases hi : e.input s.host.params with
    | reset => exact .inl ⟨_, hs.trans (step_of_input_reset s rest hi)⟩
    | nothing => exact .inl ⟨_, hs.trans (step_of_input_nothing s rest hi)⟩
    | access a =>
      have hstep : step s = step (s.withQueue (.access a :: rest)) := hs.trans (step_of_input_access s rest hi)
      cases hl : a.legal with
      | true =>
        obtain ⟨t, -, ht, -⟩ := step_access_legal s rest hl
        exact .inl ⟨t, hstep.trans ht⟩
      | false =>
        rw [step_access_illegal s rest hl] at hstep
        obtain ⟨habort, hr⟩ | ⟨-, hr⟩ := raiseBusError_cases a.addr a.width (s.withQueue rest)
        · exact .inr ⟨e, rest, a, rfl, hi, hl, habort, hstep.trans hr⟩
        · exact .inl ⟨_, hstep.trans hr⟩

/-- Settles O11: a step goes on but for a wrong access on a platform that aborts. -/
theorem onlyWrongAccessStopsAStep : Obligations.OnlyWrongAccessStopsAStep := by
  unfold Obligations.OnlyWrongAccessStopsAStep
  intro s
  obtain ⟨t, ht⟩ | ⟨e, rest, a, hq, hi, hl, habort, hfault⟩ := step_outcome s
  · rw [ht]
    exact ⟨nofun, nofun⟩
  · rw [hfault]
    refine ⟨nofun, fun f hf => ?_⟩
    cases hf
    exact ⟨e, rest, a, hq, hi, legal_eq_false_iff.mp hl, rfl, habort⟩

end Sys2Proof.Proofs
end

section
/-! Events other than accesses (R6, R88, R260), and that a host with only legal accesses never stops (R72). -/

namespace Sys2Proof.Proofs

open Sys2Proof.Machine Sys2Proof.Laws

/-! Reset and wait (R88, R260). -/

/-- Settles O2: the event's input is reset, whose effect is `resetBlock`. -/
theorem resetEventResetsBlockAndSink : Obligations.ResetEventResetsBlockAndSink := by
  unfold Obligations.ResetEventResetsBlockAndSink
  intro s rest
  exact step_of_input_reset s rest (input_reset _)

/-- Settles O13: nothing of the event reaches the block, and the host does nothing for it. -/
theorem waitIsUnobserved : Obligations.WaitIsUnobserved := by
  unfold Obligations.WaitIsUnobserved
  intro s rest d
  exact step_of_input_nothing s rest (input_wait _ d)

/-! The register window (R60). -/

/-- Settles O14: the event's input is the access at the offset, or nothing outside the window. -/
theorem hostAddressReachesItsOffset : Obligations.HostAddressReachesItsOffset := by
  unfold Obligations.HostAddressReachesItsOffset
  intro s rest n v p
  constructor
  · intro a
    exact ⟨step_of_input_access s rest (input_busRead p a n), step_of_input_access s rest (input_busWrite p a n v)⟩
  · intro addr h
    exact ⟨step_of_input_nothing s rest (input_busRead_outside n h),
      step_of_input_nothing s rest (input_busWrite_outside n v h)⟩

/-! Reset sources and overtaking (R71, R260). -/

theorem input_platform_of_mem {p : HostParams} {k : Nat} (h : k ∈ p.resetSources) :
    HostEvent.input p (.platform k) = .reset := by
  rw [input_platform, if_pos h]

theorem input_platform_of_notMem {p : HostParams} {k : Nat} (h : k ∉ p.resetSources) :
    HostEvent.input p (.platform k) = .nothing := by
  rw [input_platform, if_neg h]

theorem takeOvertake_of_ordered {s : State} (k : Nat) (h : s.host.params.busOrdered = true) : takeOvertake k s = s :=
  if_pos h

theorem takeOvertake_of_unordered {s : State} (k : Nat) (h : s.host.params.busOrdered = false) :
    takeOvertake k s = s.withQueue (bringForward k s.host.queue) := by
  simp [takeOvertake, h]

/-- An event whose fore-runners, itself included, may all be moved comes to the front. -/
theorem bringForward_of_reorderable {k : Nat} {q : List HostEvent} {e : HostEvent} (he : q[k]? = some e)
    (hall : (q.take (k + 1)).all HostEvent.reorderable = true) : bringForward k q = e :: q.eraseIdx k := by
  simp only [bringForward, he, hall, if_true]

/-- The queue is as it was unless the event and all before it may be moved. -/
theorem bringForward_cases (k : Nat) (q : List HostEvent) :
    bringForward k q = q ∨
    ∃ e, q[k]? = some e ∧ (q.take (k + 1)).all HostEvent.reorderable = true ∧ bringForward k q = e :: q.eraseIdx k := by
  unfold bringForward
  split
  · next e he =>
    split
    · exact .inr ⟨e, he, ‹_›, rfl⟩
    · exact .inl rfl
  · exact .inl rfl

/-- Taking an entry out does not change what a filter that drops it keeps. -/
theorem filter_eraseIdx_of_neg {α : Type} {p : α → Bool} {l : List α} {k : Nat} {x : α} (hx : l[k]? = some x)
    (hp : p x = false) : (l.eraseIdx k).filter p = l.filter p := by
  obtain ⟨hk, rfl⟩ := List.getElem?_eq_some_iff.mp hx
  conv_rhs => rw [← List.take_append_drop k l, List.drop_eq_getElem_cons hk]
  rw [List.eraseIdx_eq_take_drop_succ, List.filter_append, List.filter_append, List.filter_cons_of_neg (by simp [hp])]

/-- The events whose order the bus keeps stay in their order. -/
theorem bringForward_filter (k : Nat) (q : List HostEvent) :
    (bringForward k q).filter (!·.reorderable) = q.filter (!·.reorderable) := by
  obtain h | ⟨e, he, hall, h⟩ := bringForward_cases k q
  · rw [h]
  · have hmem : e ∈ q.take (k + 1) :=
      List.mem_of_getElem? (i := k) (by rw [List.getElem?_take_of_lt (Nat.lt_succ_self k), he])
    have hdrop : (!e.reorderable) = false := by simp [List.all_eq_true.mp hall e hmem]
    rw [h, List.filter_cons_of_neg (by simp [hdrop]), filter_eraseIdx_of_neg he hdrop]

/-- Settles O15: a platform event is a reset or nothing to the block, and an overtaking is `bringForward` or nothing. -/
theorem resetSourcesAndBusOrder : Obligations.ResetSourcesAndBusOrder := by
  unfold Obligations.ResetSourcesAndBusOrder
  intro s rest k p
  have hovertake : step (s.withQueue (.overtake k :: rest)) = .next (takeOvertake k (s.withQueue rest)) :=
    step_of_input_nothing s rest (input_overtake p k)
  refine ⟨?source, ?other, ?ordered, ?unordered⟩
  case source =>
    intro h
    exact step_of_input_reset s rest (input_platform_of_mem h)
  case other =>
    intro h
    exact step_of_input_nothing s rest (input_platform_of_notMem h)
  case ordered =>
    intro h
    rw [hovertake, takeOvertake_of_ordered (s := s.withQueue rest) k h]
  case unordered =>
    intro h
    refine ⟨bringForward k rest, ?_, bringForward_perm k rest, bringForward_filter k rest,
      fun e he hall => bringForward_of_reorderable he hall⟩
    rw [hovertake, takeOvertake_of_unordered (s := s.withQueue rest) k h]
    rfl

/-! Safe queues (R72). -/

theorem safe_of_input_access {p : HostParams} {e : HostEvent} {a : Access} (hi : e.input p = .access a)
    (h : e.safe p = true) : a.legal = true := by
  simpa only [HostEvent.safe, hi] using h

theorem safeQueue_iff (s : State) : s.safeQueue = true ↔ ∀ e ∈ s.host.queue, e.safe s.host.params = true :=
  List.all_eq_true

/-- The host's side of an event leaves a safe queue safe, whether it puts a request's sequence in front or reorders. -/
theorem hostEffect_safeQueue (e : HostEvent) {s : State} (h : s.safeQueue = true) :
    (hostEffect e s).safeQueue = true := by
  rw [safeQueue_iff] at h ⊢
  rw [hostEffect_params]
  cases e with
  | control r =>
    have hseq := controlSequence_safe s.host.params s.host.params
      (effective (merge r s.host.climate) (updateLkg (merge r s.host.climate) s.host.lkg))
    exact List.forall_mem_append.mpr ⟨List.all_eq_true.mp hseq, h⟩
  | overtake k =>
    obtain ⟨q, hperm, hq⟩ := takeOvertake_eq k s
    intro e he
    rw [hostEffect, hq, withQueue_host_queue] at he
    exact h e (hperm.mem_iff.mp he)
  | _ => exact h

/-- Settles O12: a legal access leaves the rest of the queue, a reset too, and the host's side of any other event keeps it
safe. -/
theorem safeQueueNeverFaults : Obligations.SafeQueueNeverFaults := by
  unfold Obligations.SafeQueueNeverFaults
  intro s hsafe
  cases hq : s.host.queue with
  | nil => exact ⟨s, step_of_queue_nil hq, hsafe⟩
  | cons e rest =>
    obtain ⟨he, hrest⟩ : e.safe s.host.params = true ∧ (s.withQueue rest).safeQueue = true := by
      rwa [State.safeQueue, hq, List.all_cons, Bool.and_eq_true] at hsafe
    rw [step_eq_of_queue hq]
    cases hi : e.input s.host.params with
    | access a =>
      obtain ⟨t, x, ht, hhost, -⟩ := step_access_legal s rest (safe_of_input_access hi he)
      refine ⟨t, (step_of_input_access s rest hi).trans ht, ?_⟩
      rw [State.safeQueue, hhost]
      exact hrest
    | reset => exact ⟨_, step_of_input_reset s rest hi, hrest⟩
    | nothing => exact ⟨_, step_of_input_nothing s rest hi, hostEffect_safeQueue e hrest⟩

end Sys2Proof.Proofs
end

section
/-! Who changes what: STATUS.ILL, WORD, the train, the configuration registers and the sink history over any step (R23-R36). -/

namespace Sys2Proof.Proofs

open Sys2Proof.Machine Sys2Proof.Laws

/-! What each command leaves unchanged. -/

theorem exec_frame {i : Instr} {s t : State} (h : exec i s = .next t) :
    t.block.status = s.block.status ∧ t.block.req = s.block.req ∧ t.host = s.host := by
  obtain ⟨u, hu, hframe⟩ := exec_completes i s
  cases hu.symm.trans h
  exact hframe

theorem exec_word_of_ne {i : Instr} {s t : State} (h : exec i s = .next t) (hi : i ≠ .encode) :
    t.block.word = s.block.word := by
  cases i with
  | encode => contradiction
  | _ => cases h; rfl

theorem exec_train_of_ne {i : Instr} {s t : State} (h : exec i s = .next t) (hi : i ≠ .serialize) :
    t.block.pulse = s.block.pulse ∧ t.block.pulseLen = s.block.pulseLen ∧ t.block.carrierHz = s.block.carrierHz := by
  cases i with
  | serialize => contradiction
  | _ => cases h; exact ⟨rfl, rfl, rfl⟩

/-- The registers that LOAD_PRESET overwrites (R182). -/
def presetRegisters : List Reg := [.carrierKhz, .hdr, .one, .zero, .sercfg]

theorem exec_presetRegisters_of_ne {i : Instr} {s t : State} (h : exec i s = .next t)
    (hi : ∀ hv fb, i ≠ .loadPreset hv fb) : ∀ q ∈ presetRegisters, readReg t.block q = readReg s.block q := by
  simp only [presetRegisters, List.forall_mem_cons]
  cases i with
  | loadPreset hv fb => exact absurd rfl (hi hv fb)
  | _ => cases h; exact ⟨rfl, rfl, rfl, rfl, rfl, nofun⟩

theorem exec_sink_of_ne {i : Instr} {s t : State} (h : exec i s = .next t) (hi : i ≠ .transmit) :
    t.sink = s.sink := by
  cases i with
  | transmit => contradiction
  | _ => cases h; rfl

/-! STATUS.ILL (R23, R231). -/

/-- A register write clears ILL only by STATUS with a 1, and never sets it. -/
theorem writeReg_ill (b : Block) (v : Word) (r : Reg) :
    (writeReg b v r).status.getLsbD 0 = (b.status.getLsbD 0 && !(decide (r = .status) && v.getLsbD 0)) := by
  by_cases hr : r = .status
  · subst hr
    rw [writeReg, writeStatus_getLsbD_zero]
    rfl
  · have hsame : (writeReg b v r).status = b.status := readReg_writeReg_ne b v (q := .status) (Ne.symm hr)
    simp only [hsame, hr, decide_false, Bool.false_and, Bool.not_false, Bool.and_true]

theorem reset_ill : Block.reset.status.getLsbD 0 = false := by decide

/-- Settles O51: of what a step can do, only an illegal word sets the flag, and only reset or a 1 written to STATUS clears it. -/
theorem illIsSticky : Obligations.IllIsSticky := by
  unfold Obligations.IllIsSticky
  intro s t hstep
  obtain ⟨hb, -⟩ | ⟨_, _, i, _, u, -, -, -, hb, -, hexec⟩ | ⟨e, v, g, rest, hq, hi, hd, hb, -⟩ |
    ⟨e, r, v, rest, hq, hi, -, hb, -⟩ | ⟨e, rest, hq, hi, hb, -⟩ := step_next_cases hstep
  · rw [hb]
    exact ⟨fun h0 h1 => absurd (h0.symm.trans h1) nofun, fun h1 h0 => absurd (h1.symm.trans h0) nofun⟩
  · obtain ⟨hstatus, -, -⟩ := exec_frame hexec
    rw [hstatus, hb]
    exact ⟨fun h0 h1 => absurd (h0.symm.trans h1) nofun, fun h1 h0 => absurd (h1.symm.trans h0) nofun⟩
  · rw [hb, setIll_status_getLsbD_zero]
    exact ⟨fun _ _ => ⟨e, v, g, rest, hq, hi, hd⟩, nofun⟩
  · rw [hb, writeReg_ill]
    constructor
    · intro h0 h1
      rw [h0, Bool.false_and] at h1
      contradiction
    · intro h1 h0
      rw [h1, Bool.true_and, Bool.not_eq_false', Bool.and_eq_true, decide_eq_true_iff] at h0
      obtain ⟨rfl, hv⟩ := h0
      exact ⟨e, rest, hq, .inr ⟨v, hi, hv⟩⟩
  · rw [hb, reset_ill]
    exact ⟨nofun, fun _ _ => ⟨e, rest, hq, .inl hi⟩⟩

/-! WORD (R30, R36). -/

/-- A register write changes WORD only at one of its four offsets. -/
theorem writeReg_word_cases (b : Block) (v : Word) (r : Reg) :
    (writeReg b v r).word = b.word ∨ r.offset ∈ ([0x020, 0x024, 0x028, 0x02C] : List Offset) := by
  cases r with
  | word0 | word1 | word2 | word3 => exact .inr (by decide)
  | _ => exact .inl rfl

/-- Settles O52: of the commands only ENCODE changes WORD, and of the registers only WORD0-WORD3. -/
theorem wordsChangeOnlyByEncodeOrWrite : Obligations.WordsChangeOnlyByEncodeOrWrite := by
  unfold Obligations.WordsChangeOnlyByEncodeOrWrite
  intro s t hstep hne
  obtain ⟨hb, -⟩ | ⟨e, v, i, rest, u, hq, hi, hd, hb, -, hexec⟩ | ⟨e, v, g, rest, -, -, -, hb, -⟩ |
    ⟨e, r, v, rest, hq, hi, -, hb, -⟩ | ⟨e, rest, hq, hi, -, -⟩ := step_next_cases hstep
  · exact absurd (congrArg Block.word hb) hne
  · have hencode : i = .encode := by
      by_contra hother
      exact hne ((exec_word_of_ne hexec hother).trans (congrArg Block.word hb))
    rw [decode_eq_instr_iff, hencode] at hd
    subst hd
    exact ⟨e, rest, hq, .inr (.inl hi)⟩
  · exact absurd (congrArg Block.word hb) hne
  · obtain hsame | hmem := writeReg_word_cases s.block v r
    · exact absurd ((congrArg Block.word hb).trans hsame) hne
    · exact ⟨e, rest, hq, .inr (.inr ⟨_, v, hi, hmem⟩)⟩
  · exact ⟨e, rest, hq, .inl hi⟩

/-! The train (R31-R33). -/

/-- Settles O53: of the commands only SERIALIZE changes the train, and no register write does. -/
theorem trainChangesOnlyBySerialize : Obligations.TrainChangesOnlyBySerialize := by
  unfold Obligations.TrainChangesOnlyBySerialize
  intro s t hstep hne
  have hchanged : ¬(t.block.pulse = s.block.pulse ∧ t.block.pulseLen = s.block.pulseLen ∧
      t.block.carrierHz = s.block.carrierHz) := by
    rw [not_and_or, not_and_or]
    exact hne
  obtain ⟨hb, -⟩ | ⟨e, v, i, rest, u, hq, hi, hd, hb, -, hexec⟩ | ⟨_, _, _, _, -, -, -, hb, -⟩ |
    ⟨_, r, v, _, -, -, -, hb, -⟩ | ⟨e, rest, hq, hi, -, -⟩ := step_next_cases hstep
  · exact absurd (by rw [hb]; exact ⟨rfl, rfl, rfl⟩) hchanged
  · have hserialize : i = .serialize := by
      by_contra hother
      exact hchanged (hb ▸ exec_train_of_ne hexec hother)
    rw [decode_eq_instr_iff, hserialize] at hd
    subst hd
    exact ⟨e, rest, hq, .inr hi⟩
  · exact absurd (by rw [hb]; exact ⟨rfl, rfl, rfl⟩) hchanged
  · exact absurd (hb ▸ writeReg_train s.block v r) hchanged
  · exact ⟨e, rest, hq, .inl hi⟩

/-! The configuration registers (R24-R29). -/

theorem readReg_setIll_of_ne (b : Block) {q : Reg} (h : q ≠ .status) : readReg b.setIll q = readReg b q := by
  cases q with
  | status => contradiction
  | _ => rfl

/-- A register other than STATUS that a step without reset changed, and that the step's command, if any, keeps, was
written. -/
theorem write_of_register_changed {s t : State} {e : HostEvent} {rest : List HostEvent} {q : Reg}
    (hstep : step s = .next t) (hq : s.host.queue = e :: rest) (hreset : e.input s.host.params ≠ .reset)
    (hstatus : q ≠ .status)
    (hexec : ∀ v i u, e.input s.host.params = .access (.write 0 4 v) → decode v = .instr i → exec i u = .next t →
      readReg t.block q = readReg u.block q)
    (hne : readReg t.block q ≠ readReg s.block q) :
    ∃ v, e.input s.host.params = .access (.write q.offset 4 v) := by
  obtain ⟨hb, -⟩ | ⟨e', v, i, rest', u, hq', hi, hd, hb, -, hu⟩ | ⟨_, _, _, _, -, -, -, hb, -⟩ |
    ⟨e', r, v, rest', hq', hi, -, hb, -⟩ | ⟨e', rest', hq', hi, -, -⟩ := step_next_cases hstep
  · exact absurd (by rw [hb]) hne
  · cases hq.symm.trans hq'
    exact absurd ((hexec v i u hi hd hu).trans (by rw [hb])) hne
  · exact absurd (by rw [hb, readReg_setIll_of_ne _ hstatus]) hne
  · cases hq.symm.trans hq'
    have hqr : q = r := by
      by_contra hother
      exact hne (by rw [hb, readReg_writeReg_ne _ _ hother])
    exact ⟨v, hqr ▸ hi⟩
  · cases hq.symm.trans hq'
    exact absurd hi hreset

/-- Settles O54: no command writes REQ, and of the commands only LOAD_PRESET the other five. -/
theorem configurationChangesOnlyByItsWriters : Obligations.ConfigurationChangesOnlyByItsWriters := by
  unfold Obligations.ConfigurationChangesOnlyByItsWriters
  intro s t hstep e rest hq hreset writes
  constructor
  · refine write_of_register_changed (q := .req) hstep hq hreset nofun fun v i u _ _ hu => ?_
    obtain ⟨-, hreq, -⟩ := exec_frame hu
    exact hreq
  · intro hpreset
    have hwritten {q : Reg} (hmem : q ∈ presetRegisters) (hne : readReg t.block q ≠ readReg s.block q) :
        writes q.offset := by
      refine write_of_register_changed hstep hq hreset (by rintro rfl; contradiction) (fun v i u hi hd hu => ?_) hne
      refine exec_presetRegisters_of_ne hu (fun hv fb hload => ?_) q hmem
      rw [decode_eq_instr_iff, hload] at hd
      exact hpreset hv fb (hd ▸ hi)
    exact ⟨hwritten (q := .carrierKhz) (by decide), hwritten (q := .hdr) (by decide), hwritten (q := .one) (by decide),
      hwritten (q := .zero) (by decide), hwritten (q := .sercfg) (by decide)⟩

/-! The sink history (R34). -/

/-- Settles O55: of the commands only TRANSMIT changes the sink history, and reset empties it. -/
theorem sinkGrowsOnlyByTransmit : Obligations.SinkGrowsOnlyByTransmit := by
  unfold Obligations.SinkGrowsOnlyByTransmit
  intro s t hstep hne
  obtain ⟨-, hk⟩ | ⟨e, v, i, rest, u, hq, hi, hd, hb, hk, hexec⟩ | ⟨_, _, _, _, -, -, -, -, hk⟩ |
    ⟨_, _, _, _, -, -, -, -, hk⟩ | ⟨e, rest, hq, hi, -, hk⟩ := step_next_cases hstep
  · exact absurd hk hne
  · have htransmit : i = .transmit := by
      by_contra hother
      exact hne ((exec_sink_of_ne hexec hother).trans hk)
    subst htransmit
    rw [decode_eq_instr_iff] at hd
    subst hd
    cases hexec
    refine ⟨e, rest, hq, .inr ⟨hi, (transaction u.block).seq, ?_⟩⟩
    rw [emit_sink, hk, ← hb]
    rfl
  · exact absurd hk hne
  · exact absurd hk hne
  · exact ⟨e, rest, hq, .inl ⟨hi, hk⟩⟩

end Sys2Proof.Proofs
end

section
/-! The properties of ENCODE (R102, R105, R112-R114): normalisation, the bits it leaves 0, and that a frame determines its
request. -/

namespace Sys2Proof.Proofs

open Sys2Proof.Machine Sys2Proof.Laws

/-- Settles O28: what ENCODE writes is `encodeFrame` of REQ, which it leaves as it was. -/
theorem encodeDependsOnReqAlone : Obligations.EncodeDependsOnReqAlone := by
  unfold Obligations.EncodeDependsOnReqAlone
  intro s
  exact ⟨_, exec_encode s, rfl, rfl, rfl, rfl, exec_encode _⟩

/-! The frame of a request given by its fields. -/

/-- ENCODE sees a composed REQ word as the fields it was composed from. -/
theorem encodeFrame_value (f : ReqFields) :
    encodeFrame f.value = frameOf (normaliseEnums f) (normaliseTemp f.tvalid f.temp) := by
  rw [encodeFrame, reqFields_value]

theorem normaliseTemp_absent (t : BitVec 16) : normaliseTemp false t = normaliseTemp true 0x1800 := by
  rw [normaliseTemp, normaliseTemp]
  rfl

theorem normaliseTemp_of_low {t : BitVec 16} (h : t.toInt < 16 * 256) : normaliseTemp true t = 0x1000 := by
  rw [normaliseTemp_eq_clamp, if_pos rfl]
  omega

theorem normaliseTemp_of_high {t : BitVec 16} (h : 30 * 256 < t.toInt) : normaliseTemp true t = 0x1E00 := by
  rw [normaliseTemp_eq_clamp, if_pos rfl]
  omega

/-- Frames of requests that differ in the temperature alone are equal when the normalised temperatures are. -/
theorem encodeFrame_value_congr_temp (f : ReqFields) {v v' : Bool} {t t' : BitVec 16}
    (h : normaliseTemp v t = normaliseTemp v' t') :
    encodeFrame { f with tvalid := v, temp := t }.value = encodeFrame { f with tvalid := v', temp := t' }.value := by
  rw [encodeFrame_value, encodeFrame_value, h]
  rfl

/-- Settles O29: the temperature enters the frame normalised, and out of range that is the bound. -/
theorem outOfRangeTemperaturesNormalise : Obligations.OutOfRangeTemperaturesNormalise := by
  unfold Obligations.OutOfRangeTemperaturesNormalise
  intro f
  refine ⟨encodeFrame_value_congr_temp f (normaliseTemp_absent f.temp), fun hlow => ?_, fun hhigh => ?_⟩
  · exact encodeFrame_value_congr_temp f (normaliseTemp_of_low hlow)
  · exact encodeFrame_value_congr_temp f (normaliseTemp_of_high hhigh)

theorem normaliseMode_of_unmapped {c : BitVec 3} (h : 5 ≤ c.toNat) : normaliseMode c = normaliseMode 0 := by
  revert c
  decide

theorem normaliseVane_unmapped : normaliseVane 7 = normaliseVane 3 := by decide

/-- Settles O30: the codes enter the frame normalised. -/
theorem unmappedCodesEncodeAsDefaults : Obligations.UnmappedCodesEncodeAsDefaults := by
  unfold Obligations.UnmappedCodesEncodeAsDefaults
  intro f
  constructor
  · intro hmode
    rw [encodeFrame_value, encodeFrame_value, normaliseEnums, normaliseMode_of_unmapped hmode]
    rfl
  · rw [encodeFrame_value, encodeFrame_value, normaliseEnums, normaliseVane_unmapped]
    rfl

/-! Power reaches W2 alone (R113). -/

/-- W2 tells power from its lowest b0 bit: 0x05 with power off, 0x02 or 0x06 with power on (R109, R110). -/
theorem word2_getLsbD_24 (power : Bool) (m : Mode) (health timer : Bool) :
    (word2 power m health timer).getLsbD 24 = !power := by
  cases power with
  | false => exact (by decide : (0x05000000 : Word).getLsbD 24 = true)
  | true => cases m <;> cases health <;> cases timer <;> rfl

/-- Bit 0 of REQ is the power field and nothing of the others (R24). -/
theorem reqFields_xor_one (r : Word) : reqFields (r ^^^ 1) = { reqFields r with power := !r.getLsbD 0 } := by
  simp [reqFields, BitVec.extractLsb'_xor]

/-- The frame of a REQ word with the power bit inverted. -/
theorem encodeFrame_xor_one (r : Word) :
    encodeFrame (r ^^^ 1) =
      frameOf { normaliseEnums (reqFields r) with power := !r.getLsbD 0 }
        (normaliseTemp (reqFields r).tvalid (reqFields r).temp) := by
  rw [encodeFrame, reqFields_xor_one]
  rfl

/-- Settles O31: the frames of the two requests are those of the same fields but for power, which W0 and W1 do not take and
W2 holds in its bit 24. -/
theorem powerReachesOnlyWordTwo : Obligations.PowerReachesOnlyWordTwo := by
  unfold Obligations.PowerReachesOnlyWordTwo
  intro s r
  have hxor := encodeFrame_xor_one r
  refine ⟨_, _, exec_encode _, exec_encode _, ?_, ?_, ?_⟩
  · exact (congrArg WordBuf.w0 hxor).symm
  · exact (congrArg WordBuf.w1 hxor).symm
  · intro h
    have hbit : (!r.getLsbD 0) = !(!r.getLsbD 0) :=
      calc (!r.getLsbD 0)
        _ = (encodeFrame r).w2.getLsbD 24 := (word2_getLsbD_24 _ _ _ _).symm
        _ = (encodeFrame (r ^^^ 1)).w2.getLsbD 24 := congrArg (BitVec.getLsbD · 24) h
        _ = !(!r.getLsbD 0) := by
          rw [hxor]
          exact word2_getLsbD_24 _ _ _ _
    exact Bool.not_ne_self _ hbit.symm

/-! The bits that ENCODE leaves 0 (R114). -/

/-- A word is determined by its four bytes. -/
theorem eq_of_wordBytes_eq {v w : Word} (h : wordBytes v = wordBytes w) : v = w := by
  simp only [wordBytes, List.cons.injEq, and_true, ← BitVec.toNat_inj, extractLsb'_toNat_eq_div_mod] at h
  have := v.isLt
  have := w.isLt
  exact BitVec.eq_of_toNat_eq (by omega)

/-- Masking a packed word masks its bytes. -/
theorem packWord_and (a b c d p q r s : Byte) :
    packWord a b c d &&& packWord p q r s = packWord (a &&& p) (b &&& q) (c &&& r) (d &&& s) := by
  apply eq_of_wordBytes_eq
  rw [wordBytes_packWord]
  simp only [wordBytes, BitVec.extractLsb'_and, packWord_b0, packWord_b1, packWord_b2, packWord_b3]

/-- A mask that clears every byte clears the word. -/
theorem packWord_and_eq_zero {a b c d p q r s : Byte} (ha : a &&& p = 0) (hb : b &&& q = 0) (hc : c &&& r = 0)
    (hd : d &&& s = 0) : packWord a b c d &&& packWord p q r s = 0 := by
  rw [packWord_and, ha, hb, hc, hd]
  rfl

theorem word0_and_mask (full : Int) (half : Bool) (vane : BitVec 3) (lr : Bool) :
    word0 full half vane lr &&& 0x7F1F0000 = 0 := by
  refine packWord_and_eq_zero (p := 0x7F) (q := 0x1F) (r := 0) (s := 0) ?_ ?_ BitVec.and_zero BitVec.and_zero
  · cases half <;> rfl
  · cases lr <;> rfl

theorem word1_and_mask (m : Mode) (f : Fan) (health sleep : Bool) :
    word1 m f health sleep &&& 0xFF0BFF1F = 0 := by
  refine packWord_and_eq_zero (p := 0xFF) (q := 0x0B) (r := 0xFF) (s := 0x1F) rfl ?_ rfl ?_
  · cases m <;> cases health <;> cases sleep <;> rfl
  · cases f <;> rfl

theorem word2_and_mask (power : Bool) (m : Mode) (health timer : Bool) :
    word2 power m health timer &&& 0x00FF8DFF = 0 := by
  cases power with
  | false => exact (by decide : (0x05000000 : Word) &&& 0x00FF8DFF = 0)
  | true =>
    refine packWord_and_eq_zero (p := 0) (q := 0xFF) (r := 0x8D) (s := 0xFF) BitVec.and_zero rfl ?_ rfl
    cases m <;> cases health <;> cases timer <;> rfl

theorem word2_on_and_mask (m : Mode) (health timer : Bool) : word2 true m health timer &&& 0xF9000000 = 0 := by
  refine packWord_and_eq_zero (p := 0xF9) (q := 0) (r := 0) (s := 0) ?_ BitVec.and_zero BitVec.and_zero BitVec.and_zero
  cases m <;> rfl

theorem word2_off_and_mask (m : Mode) (health timer : Bool) : word2 false m health timer &&& 0xFA000000 = 0 :=
  (by decide : (0x05000000 : Word) &&& 0xFA000000 = 0)

/-- A byte zero-extended is a word whose other bytes are 0. -/
theorem setWidth_eq_packWord (c : Byte) : c.setWidth 32 = packWord 0 0 0 c := by
  simp [packWord]

theorem setWidth_and_mask (c : Byte) : c.setWidth 32 &&& 0xFFFFFF00 = 0 := by
  rw [setWidth_eq_packWord]
  exact packWord_and_eq_zero (p := 0xFF) (q := 0xFF) (r := 0xFF) (s := 0) rfl rfl rfl BitVec.and_zero

/-- Settles O32: each word's mask clears each of its bytes. -/
theorem encodeWritesItsZeroBits : Obligations.EncodeWritesItsZeroBits := by
  unfold Obligations.EncodeWritesItsZeroBits
  intro s
  refine ⟨_, exec_encode s, word0_and_mask _ _ _ _, word1_and_mask _ _ _ _, word2_and_mask _ _ _ _, ?on, ?off,
    setWidth_and_mask _⟩
  case on =>
    intro hpower
    rw [withBlock_block, withWord_word, encodeFrame_w2, hpower]
    exact word2_on_and_mask _ _ _
  case off =>
    intro hpower
    rw [withBlock_block, withWord_word, encodeFrame_w2, hpower]
    exact word2_off_and_mask _ _ _

/-! The temperature byte (R105). -/

theorem word0_b2 (full : Int) (half : Bool) (vane : BitVec 3) (lr : Bool) :
    (word0 full half vane lr).toNat / 2 ^ 8 % 256 = (tempByte full vane).toNat := by
  have hb2 := congrArg BitVec.toNat (packWord_b2 (if half then 0x80 else 0x00) (if lr then 0x00 else 0xE0)
    (tempByte full vane) 0xC3)
  rwa [extractLsb'_toNat_eq_div_mod] at hb2

/-- Settles O33: the byte is `8 * (full_deg - 8) + vane` with whole degrees 16..30 and vane 0..6. -/
theorem temperatureByteHoldsDegreesAndVane : Obligations.TemperatureByteHoldsDegreesAndVane := by
  unfold Obligations.TemperatureByteHoldsDegreesAndVane
  intro s
  refine ⟨_, exec_encode s, ?_⟩
  intro b2 f
  obtain ⟨lo, hi⟩ := normaliseTemp_range f.tvalid f.temp
  obtain ⟨flo, fhi⟩ := fullDeg_range lo hi
  have hb2 : b2 = (tempByte (fullDeg (normaliseTemp f.tvalid f.temp)) (normaliseVane f.vane)).toNat := word0_b2 _ _ _ _
  have hbyte := tempByte_toNat (v := normaliseVane f.vane) flo fhi
  have hvane := normaliseVane_le f.vane
  rw [← hb2] at hbyte
  omega

/-! A frame determines its request. -/

/-- Packed words are equal only byte by byte. -/
theorem packWord_inj {a b c d a' b' c' d' : Byte} (h : packWord a b c d = packWord a' b' c' d') :
    a = a' ∧ b = b' ∧ c = c' ∧ d = d' := by
  have hbytes := congrArg wordBytes h
  simpa only [wordBytes_packWord, List.cons.injEq, and_true] using hbytes

/-! The two bytes of W0 that hold one flag each (R106). -/

theorem halfByte_inj : ∀ half half' : Bool,
    (if half then 0x80 else 0x00 : Byte) = (if half' then 0x80 else 0x00) → half = half' := by
  decide

theorem lrByte_inj : ∀ lr lr' : Bool,
    (if lr then 0x00 else 0xE0 : Byte) = (if lr' then 0x00 else 0xE0) → lr = lr' := by
  decide

/-- W0 determines the whole degrees, the half degree, the vane and the sweep (R105, R106). -/
theorem word0_inj {full full' : Int} {half half' lr lr' : Bool} {vane vane' : BitVec 3}
    (lo : 16 ≤ full) (hi : full ≤ 30) (lo' : 16 ≤ full') (hi' : full' ≤ 30)
    (h : word0 full half vane lr = word0 full' half' vane' lr') :
    full = full' ∧ half = half' ∧ vane = vane' ∧ lr = lr' := by
  obtain ⟨hhalf, hlr, htemp, -⟩ := packWord_inj h
  have hnum := tempByte_toNat (v := vane) lo hi
  have hnum' := tempByte_toNat (v := vane') lo' hi'
  have hlt := vane.isLt
  have hlt' := vane'.isLt
  rw [htemp] at hnum
  exact ⟨by omega, halfByte_inj _ _ hhalf, BitVec.eq_of_toNat_eq (by omega), lrByte_inj _ _ hlr⟩

/-! The bits of W1 that hold its fields: the selector above the health and sleep bits, and the fan selector (R107, R108). -/

theorem modeSelector_inj {m m' : Mode} (h : modeSelector m = modeSelector m') : m = m' := by
  cases m <;> cases m' <;> simp [modeSelector] at h ⊢

theorem fanSelector_inj {f f' : Fan} (h : fanSelector f = fanSelector f') : f = f' := by
  cases f <;> cases f' <;> simp [fanSelector] at h ⊢

/-- W1.b1 read back: the health bit, the sleep bit and the selector. -/
theorem modeByte_fields (m : Mode) (health sleep : Bool) :
    let b := modeSelector m ||| (if health then 0x10 else 0x00) ||| (if sleep then 0x04 else 0x00)
    b.getLsbD 4 = health ∧ b.getLsbD 2 = sleep ∧ b &&& 0xE0 = modeSelector m := by
  cases m <;> cases health <;> cases sleep <;> exact ⟨rfl, rfl, rfl⟩

/-- W1 determines the mode, the fan, health and sleep. -/
theorem word1_inj {m m' : Mode} {f f' : Fan} {health health' sleep sleep' : Bool}
    (h : word1 m f health sleep = word1 m' f' health' sleep') :
    m = m' ∧ f = f' ∧ health = health' ∧ sleep = sleep' := by
  obtain ⟨-, hmode, -, hfan⟩ := packWord_inj h
  obtain ⟨hhealth, hsleep, hsel⟩ := modeByte_fields m health sleep
  obtain ⟨hhealth', hsleep', hsel'⟩ := modeByte_fields m' health' sleep'
  rw [hmode] at hhealth hsleep hsel
  exact ⟨modeSelector_inj (hsel.symm.trans hsel'), fanSelector_inj hfan, hhealth.symm.trans hhealth',
    hsleep.symm.trans hsleep'⟩

/-- W2 determines the power. -/
theorem word2_power_inj {p p' health health' timer timer' : Bool} {m m' : Mode}
    (h : word2 p m health timer = word2 p' m' health' timer') : p = p' := by
  have hbit := congrArg (BitVec.getLsbD · 24) h
  simpa only [word2_getLsbD_24, Bool.not_inj_iff] using hbit

/-- The whole degrees of any request are 16..30. -/
theorem fullDeg_normaliseTemp_range (v : Bool) (t : BitVec 16) :
    16 ≤ fullDeg (normaliseTemp v t) ∧ fullDeg (normaliseTemp v t) ≤ 30 := by
  obtain ⟨lo, hi⟩ := normaliseTemp_range v t
  exact fullDeg_range lo hi

/-- Settles O34: W0 determines the temperature, vane and sweep, W1 the mode, fan, health and sleep, W2 the power. -/
theorem frameDeterminesTheRequest : Obligations.FrameDeterminesTheRequest := by
  unfold Obligations.FrameDeterminesTheRequest
  intro q r h a b t u
  obtain ⟨tlo, thi⟩ : 16 ≤ fullDeg t ∧ fullDeg t ≤ 30 := fullDeg_normaliseTemp_range _ _
  obtain ⟨ulo, uhi⟩ : 16 ≤ fullDeg u ∧ fullDeg u ≤ 30 := fullDeg_normaliseTemp_range _ _
  obtain ⟨hfull, hhalf, hvane, hlr⟩ := word0_inj tlo thi ulo uhi (congrArg WordBuf.w0 h)
  obtain ⟨hmode, hfan, hhealth, hsleep⟩ := word1_inj (congrArg WordBuf.w1 h)
  have hpower := word2_power_inj (congrArg WordBuf.w2 h)
  exact ⟨hpower, hmode, hfan, hvane, hlr, hhealth, hsleep, hfull, hhalf⟩

end Sys2Proof.Proofs
end

section
/-! The properties of SERIALIZE and TRANSMIT (R152-R166, R266, R271), the bits of a frame on the wire (R156, R161, R162), and
the commands straight after reset (R262). -/

namespace Sys2Proof.Proofs

open Sys2Proof.Machine Sys2Proof.Laws

/-! What SERIALIZE leaves alone and does again (R160). -/

/-- The raw train is read from registers that SERIALIZE does not write. -/
theorem rawTrain_withTrain (b : Block) (p : List Duration) (n hz : Word) : rawTrain (b.withTrain p n hz) = rawTrain b := rfl

theorem train_withTrain (b : Block) (p : List Duration) (n hz : Word) : train (b.withTrain p n hz) = train b := by
  rw [train, rawTrain_withTrain, train]

/-- Settles O37: the second SERIALIZE reads what the first read. -/
theorem serializeFrameAndIdempotence : Obligations.SerializeFrameAndIdempotence := by
  unfold Obligations.SerializeFrameAndIdempotence
  intro s
  refine ⟨_, exec_serialize s, rfl, rfl, rfl, ?_⟩
  rw [exec_serialize, withBlock_block, train_withTrain]
  rfl

/-! The length of a train (R154, R159). -/

/-- The train and the zeros dropped from the raw train make up the raw train. -/
theorem train_length_add_count (b : Block) : (train b).length + (rawTrain b).count 0 = 2 + 2 * cappedCount b.sercfg := by
  rw [← rawTrain_length, train, ← List.countP_eq_length_filter, List.count,
    List.length_eq_countP_add_countP (fun d : Duration => decide (d ≠ 0)) (l := rawTrain b)]
  congr 2
  funext d
  rw [Bool.eq_iff_iff]
  simp

/-- The timings of a register that is used are both non-zero. -/
abbrev TimingNonzero (w : Word) : Prop := markOf w ≠ 0 ∧ spaceOf w ≠ 0

theorem zero_notMem_pairOf_iff (w : Word) : 0 ∉ pairOf w ↔ TimingNonzero w := by
  simp [pairOf, TimingNonzero, eq_comm]

/-- The raw train has no zero exactly when the header and the timing of every bit sent have none. -/
theorem zero_notMem_rawTrain_iff (b : Block) :
    0 ∉ rawTrain b ↔ TimingNonzero b.hdr ∧ ∀ i < cappedCount b.sercfg,
      TimingNonzero (if dataBit (msbField b.sercfg) b.word i then b.one else b.zero) := by
  simp only [rawTrain, List.mem_append, List.mem_flatMap, List.mem_range, not_or, not_exists, not_and,
    zero_notMem_pairOf_iff]

/-- A choice by a bit meets a predicate everywhere exactly when each alternative that is chosen somewhere does. -/
theorem forall_ite_iff {α : Type} (p : α → Prop) (bit : Nat → Bool) (n : Nat) (x y : α) :
    (∀ i < n, p (if bit i then x else y)) ↔
      ((∃ i < n, bit i = true) → p x) ∧ ((∃ i < n, bit i = false) → p y) := by
  constructor
  · intro h
    constructor
    · rintro ⟨i, hi, hbit⟩
      simpa [hbit] using h i hi
    · rintro ⟨i, hi, hbit⟩
      simpa [hbit] using h i hi
  · rintro ⟨hx, hy⟩ i hi
    cases hbit : bit i with
    | true => exact hx ⟨i, hi, hbit⟩
    | false => exact hy ⟨i, hi, hbit⟩

/-- Settles O38: PULSE_LEN is the length of the train, which falls short of the raw train by its zeros. -/
theorem trainLengthCountsZeros : Obligations.TrainLengthCountsZeros := by
  unfold Obligations.TrainLengthCountsZeros
  intro s b n used
  have hn : cappedCount b.sercfg = n := cappedCount_eq_min _
  have hlen : (BitVec.ofNat 32 (train b).length).toNat + (rawTrain b).count 0 = 2 + 2 * n := by
    rw [ofNat_train_length_toNat, train_length_add_count, hn]
  refine ⟨_, exec_serialize s, hlen, ?_⟩
  have hfull : (BitVec.ofNat 32 (train b).length).toNat = 2 + 2 * n ↔ 0 ∉ rawTrain b := by
    rw [← List.count_eq_zero]
    omega
  rw [← forall_ite_iff used, ← hn]
  rw [← hn] at hfull
  exact hfull.trans (zero_notMem_rawTrain_iff b)

/-! The place of each pair when no timing is zero (R153, R156). -/

/-- Of pairs laid end to end, the `i`-th stands at `2i` and `2i+1`. -/
theorem getD_flatMap_pair {α : Type} (d : α) (f g : Nat → α) {n i : Nat} (hi : i < n) :
    ((List.range n).flatMap fun j => [f j, g j]).getD (2 * i) d = f i ∧
    ((List.range n).flatMap fun j => [f j, g j]).getD (2 * i + 1) d = g i := by
  induction n with
  | zero => contradiction
  | succ n ih =>
    have hlen : ((List.range n).flatMap fun j => [f j, g j]).length = 2 * n := by
      simp [List.length_flatMap]
      omega
    rw [List.range_succ, List.flatMap_append]
    obtain hlt | rfl : i < n ∨ i = n := by omega
    · rw [List.getD_append _ _ _ _ (by omega), List.getD_append _ _ _ _ (by omega)]
      exact ih hlt
    · rw [List.getD_append_right _ _ _ _ (by omega), List.getD_append_right _ _ _ _ (by omega), hlen]
      simp

/-- The raw train begins with the header's pair. -/
theorem rawTrain_getD_header (b : Block) :
    (rawTrain b).getD 0 0 = markOf b.hdr ∧ (rawTrain b).getD 1 0 = spaceOf b.hdr := ⟨rfl, rfl⟩

/-- The pair of bit `i` follows at entries `2 + 2i` and `3 + 2i` of the raw train. -/
theorem rawTrain_getD_bit (b : Block) {i : Nat} (hi : i < cappedCount b.sercfg) :
    let timing := if dataBit (msbField b.sercfg) b.word i then b.one else b.zero
    (rawTrain b).getD (2 + 2 * i) 0 = markOf timing ∧ (rawTrain b).getD (3 + 2 * i) 0 = spaceOf timing := by
  intro timing
  obtain ⟨hmark, hspace⟩ := getD_flatMap_pair 0
    (fun j => markOf (if dataBit (msbField b.sercfg) b.word j then b.one else b.zero))
    (fun j => spaceOf (if dataBit (msbField b.sercfg) b.word j then b.one else b.zero)) hi
  have heven : 2 + 2 * i = 2 * i + 1 + 1 := by omega
  have hodd : 3 + 2 * i = 2 * i + 1 + 1 + 1 := by omega
  rw [heven, hodd]
  exact ⟨hmark, hspace⟩

/-- With no zero to drop the train is the raw train. -/
theorem train_eq_rawTrain {b : Block} (h : 0 ∉ rawTrain b) : train b = rawTrain b := by
  refine List.filter_eq_self.mpr fun d hd => decide_eq_true ?_
  rintro rfl
  exact h hd

/-- Past the train the buffer reads 0, as a list past its end does. -/
theorem padTrain_getD_eq (p : List Duration) (k : Nat) : (padTrain p).getD k 0 = p.getD k 0 := by
  rw [padTrain_getD]
  split
  · rfl
  · exact (List.getD_eq_default _ _ (by omega)).symm

/-- Settles O39: nothing is dropped, so the buffer holds the raw train with each pair at its place. -/
theorem pairOfEachBitAtItsPlace : Obligations.PairOfEachBitAtItsPlace := by
  unfold Obligations.PairOfEachBitAtItsPlace
  intro s h
  obtain ⟨hhdr, hone, hzero, -⟩ : TimingNonzero s.block.hdr ∧ TimingNonzero s.block.one ∧
      TimingNonzero s.block.zero ∧ ∀ w ∈ [], TimingNonzero w := by
    simpa only [List.forall_mem_cons, TimingNonzero] using h
  have hnz : 0 ∉ rawTrain s.block := by
    rw [zero_notMem_rawTrain_iff, forall_ite_iff]
    exact ⟨hhdr, fun _ => hone, fun _ => hzero⟩
  have hentry (k : Nat) : (padTrain (train s.block)).getD k 0 = (rawTrain s.block).getD k 0 := by
    rw [padTrain_getD_eq, train_eq_rawTrain hnz]
  obtain ⟨hmark, hspace⟩ := rawTrain_getD_header s.block
  refine ⟨_, exec_serialize s, (hentry 0).trans hmark, (hentry 1).trans hspace, ?_⟩
  intro i hi
  rw [← cappedCount_eq_min] at hi
  obtain ⟨hmark, hspace⟩ := rawTrain_getD_bit s.block hi
  rw [dataBit_eq_getLsbD] at hmark hspace
  exact ⟨(hentry _).trans hmark, (hentry _).trans hspace⟩

/-! The cap (R152). -/

theorem cappedCount_of_large {count : BitVec 16} (msb : Bool) (h : 128 ≤ count.toNat) :
    cappedCount (sercfgWord count msb) = 128 := by
  rw [cappedCount, bitCountField_sercfgWord]
  exact Nat.min_eq_right h

/-- Counts from the cap up give one train. -/
theorem train_of_large (b : Block) {count count' : BitVec 16} (msb : Bool) (h : 128 ≤ count.toNat)
    (h' : 128 ≤ count'.toNat) :
    train { b with sercfg := sercfgWord count msb } = train { b with sercfg := sercfgWord count' msb } := by
  simp only [train, rawTrain, cappedCount_of_large msb h, cappedCount_of_large msb h', msbField_sercfgWord]

/-- Settles O40: the train takes the count only as capped. -/
theorem bitCountIsCappedSilently : Obligations.BitCountIsCappedSilently := by
  unfold Obligations.BitCountIsCappedSilently
  intro s count msb h
  have htrain := train_of_large s.block msb h (by decide : 128 ≤ (128 : BitVec 16).toNat)
  refine ⟨_, _, exec_serialize _, exec_serialize _, ?_⟩
  simp only [withBlock_block, withTrain_pulse, withTrain_pulseLen, withTrain_carrierHz, withTrain_status, htrain,
    and_self]

/-! The bits of an ENCODE frame that the serializer reads (R156, R161, R162). -/

/-- Least significant first, bit `8j + k` is bit `k` of byte `j` of the words, each from its lowest byte. -/
theorem dataBit_lsb_byte (w : WordBuf) (j : Nat) {k : Nat} (hk : k < 8) :
    dataBit false w (8 * j + k) = (w.get (j / 4)).getLsbD (8 * (j % 4) + k) := by
  have hword : (8 * j + k) / 32 = j / 4 := by omega
  have hbit : (8 * j + k) % 32 = 8 * (j % 4) + k := by omega
  simp only [dataBit, hword, hbit, Bool.false_eq_true, if_false]

theorem wordBytes_reverse_getLsbD (w : Word) {m k : Nat} (hm : m < 4) (hk : k < 8) :
    ((wordBytes w).reverse.getD m 0).getLsbD k = w.getLsbD (8 * m + k) := by
  interval_cases m <;> simp [wordBytes, hk]

/-- Of the twelve bytes before the checksum, byte `j` is byte `j mod 4` of word `j / 4`, from the lowest (R156). -/
theorem frameBytes_getD (w : WordBuf) (c : Byte) {j : Nat} (hj : j < 12) :
    ((wordBytes w.w0).reverse ++ (wordBytes w.w1).reverse ++ (wordBytes w.w2).reverse ++ [c]).getD j 0 =
      (wordBytes (w.get (j / 4))).reverse.getD (j % 4) 0 := by
  interval_cases j <;> rfl

theorem setWidth_getLsbD_of_lt (c : Byte) {k : Nat} (hk : k < 8) : (c.setWidth 32).getLsbD k = c.getLsbD k := by
  rw [BitVec.getLsbD_setWidth, decide_eq_true (by omega), Bool.true_and]

/-- Settles O41: the bytes of each frame word from the lowest, and the checksum in the lowest byte of WORD[3]. -/
theorem frameBytesInWireOrder : Obligations.FrameBytesInWireOrder := by
  unfold Obligations.FrameBytesInWireOrder
  intro s
  refine ⟨_, exec_encode s, ?_⟩
  intro w j hj k hk
  rw [dataBit_lsb_byte w j hk]
  obtain rfl | hlt : j = 12 ∨ j < 12 := by omega
  · have hbit : 8 * (12 % 4) + k = k := by omega
    rw [hbit]
    exact setWidth_getLsbD_of_lt _ hk
  · rw [frameBytes_getD w _ hlt, wordBytes_reverse_getLsbD _ (Nat.mod_lt _ (by decide)) hk]

/-- A byte zero-extended has no bit from 8 up. -/
theorem setWidth_getLsbD_of_ge (c : Byte) {i : Nat} (hi : 8 ≤ i) : (c.setWidth 32).getLsbD i = false := by
  rw [BitVec.getLsbD_setWidth, BitVec.getLsbD_of_ge _ _ hi, Bool.and_false]

/-- Settles O42: each of these bits is a bit of WORD[3] above its checksum byte. -/
theorem frameBitsBeyondTheChecksum : Obligations.FrameBitsBeyondTheChecksum := by
  unfold Obligations.FrameBitsBeyondTheChecksum
  intro s
  refine ⟨_, exec_encode s, ?_, ?_⟩
  · intro i hlo hhi
    have hword : i / 32 = 3 := by omega
    rw [dataBit, if_pos rfl, hword]
    exact setWidth_getLsbD_of_ge _ (by omega)
  · exact setWidth_getLsbD_of_ge _ (by decide)

/-! The wire time (R271). -/

/-- Zero durations take no time. -/
theorem sum_toNat_filter_ne_zero (l : List Duration) :
    ((l.filter (· ≠ 0)).map BitVec.toNat).sum = (l.map BitVec.toNat).sum := by
  induction l with
  | nil => rfl
  | cons d l ih =>
    by_cases hd : d = 0
    · rw [List.filter_cons_of_neg (by simp [hd]), ih, List.map_cons, List.sum_cons, hd]
      exact (Nat.zero_add _).symm
    · rw [List.filter_cons_of_pos (by simpa using hd), List.map_cons, List.sum_cons, ih, List.map_cons, List.sum_cons]

/-- The duration of a mark and its space. -/
def pairTime (w : Word) : Nat := ((pairOf w).map BitVec.toNat).sum

/-- The wire time of a train is the header's time and each bit's. -/
theorem train_time (b : Block) :
    ((train b).map BitVec.toNat).sum = pairTime b.hdr + ((List.range (cappedCount b.sercfg)).map fun i =>
      pairTime (if dataBit (msbField b.sercfg) b.word i then b.one else b.zero)).sum := by
  rw [train, sum_toNat_filter_ne_zero, rawTrain, List.map_append, List.sum_append, List.map_flatMap, List.flatMap_def,
    List.sum_flatten, List.map_map]
  rfl

/-- Bits of two times, the longer counted twice over. -/
theorem sum_bit_times (bit : Nat → Bool) (l : List Nat) :
    (l.map fun i => if bit i then 2200 else 1100).sum = l.length * 1100 + 1100 * l.countP bit := by
  induction l with
  | nil => rfl
  | cons i l ih =>
    rw [List.map_cons, List.sum_cons, ih, List.length_cons, List.countP_cons]
    split <;> omega

/-- What SERIALIZE leaves valid in the buffer is the train. -/
theorem take_padTrain_train (b : Block) :
    (padTrain (train b)).take (BitVec.ofNat 32 (train b).length).toNat = train b := by
  rw [ofNat_train_length_toNat, padTrain_take]

theorem pairTime_presetHdr (hv : HeaderVariant) :
    pairTime (presetHdr hv) = match hv with | .h8950 => 13400 | .h9000 => 13500 := by
  cases hv <;> rfl

theorem pairTime_presetBit (bit : Bool) :
    pairTime (if bit then presetOne else presetZero) = if bit then 2200 else 1100 := by
  cases bit <;> rfl

/-- The wire time of the 104 bits of a preset, least significant first (R181). -/
theorem train_time_preset (b : Block) (hv : HeaderVariant) :
    ((train (b.withTiming presetKhz (presetHdr hv) presetOne presetZero (presetSercfg .bits104))).map BitVec.toNat).sum =
      pairTime (presetHdr hv) + (104 * 1100 + 1100 * ((List.range 104).countP fun i => dataBit false b.word i)) := by
  have hcount : cappedCount (presetSercfg .bits104) = 104 := by decide
  have hmsb : msbField (presetSercfg .bits104) = false := msbField_sercfgWord _ _
  rw [train_time]
  simp only [withTiming_hdr, withTiming_one, withTiming_zero, withTiming_sercfg, withTiming_word, hcount, hmsb,
    pairTime_presetBit, sum_bit_times, List.length_range]

/-- Settles O43: under a preset a 0 bit takes 1100 µs and a 1 bit 2200 µs. -/
theorem wireTimeOfAFrame : Obligations.WireTimeOfAFrame := by
  unfold Obligations.WireTimeOfAFrame
  intro s hv
  refine ⟨_, _, exec_loadPreset hv .bits104 s, exec_serialize _, ?_⟩
  rw [withBlock_block, withBlock_block, withTrain_pulse, withTrain_pulseLen, take_padTrain_train, train_time_preset,
    Nat.add_assoc]
  exact congrArg (· + _) (pairTime_presetHdr hv)

/-! TRANSMIT (R165, R166, R266). -/

/-- Settles O45: TRANSMIT leaves the block, so the second transaction is the first. -/
theorem secondTransmitIsEqual : Obligations.SecondTransmitIsEqual := by
  unfold Obligations.SecondTransmitIsEqual
  intro s
  exact ⟨_, _, transaction s.block, exec_transmit s, exec_transmit _, rfl, rfl, rfl⟩

/-- A block that holds the train and carrier of `c` hands them over. -/
theorem transaction_of_serialized {b c : Block} (hpulse : b.pulse = padTrain (train c))
    (hlen : b.pulseLen = BitVec.ofNat 32 (train c).length) (hhz : b.carrierHz = carrierInHz c.carrierKhz) :
    transaction b = ⟨carrierInHz c.carrierKhz, train c⟩ := by
  have hle : (BitVec.ofNat 32 (train c).length).toNat ≤ 258 := by
    rw [ofNat_train_length_toNat]
    exact train_length_le c
  rw [transaction, hpulse, hlen, hhz, lenField_toNat hle, take_padTrain_train]

theorem carrierInHz_eq_ofNat (w : Word) : carrierInHz w = BitVec.ofNat 32 (1000 * (w.toNat % 2 ^ 16)) := by
  rw [← khzField_toNat, ← carrierInHz_toNat, BitVec.ofNat_toNat, BitVec.setWidth_eq]

/-- Settles O46: the buffers hold the train and carrier of the SERIALIZE, and TRANSMIT reads nothing else. -/
theorem transmitSendsTheLastSerializedTrain : Obligations.TransmitSendsTheLastSerializedTrain := by
  unfold Obligations.TransmitSendsTheLastSerializedTrain
  intro s t u hserialize hpulse hlen hhz
  cases (exec_serialize s).symm.trans hserialize
  rw [exec_transmit, transaction_of_serialized hpulse hlen hhz, carrierInHz_eq_ofNat]
  rfl

/-! Idempotence of LOAD_PRESET (R184), and the commands straight after reset (R262). -/

/-- Settles O48: the five registers get the same values again. -/
theorem loadPresetIsIdempotent : Obligations.LoadPresetIsIdempotent := by
  unfold Obligations.LoadPresetIsIdempotent
  intro s hv fb
  exact ⟨_, exec_loadPreset hv fb s, exec_loadPreset hv fb _, rfl⟩

/-- Straight after reset the raw train is a header of two zeros and no bit, so nothing is left of it. -/
theorem train_reset : train Block.reset = [] := by decide

/-- R262's frame of the reset request. -/
theorem encodeFrame_reset :
    encodeFrame Block.reset.req = ⟨0x00E083C3, 0x002000A0, 0x05000000, 0x000000EB⟩ := by decide

/-- Settles O3: the train is empty and the frame is that of the reset request. -/
theorem commandsStraightAfterReset : Obligations.CommandsStraightAfterReset := by
  unfold Obligations.CommandsStraightAfterReset
  refine ⟨⟨_, exec_serialize _, ?len, rfl⟩, ⟨_, exec_transmit _, rfl⟩, ⟨_, exec_encode _, encodeFrame_reset⟩⟩
  case len => exact congrArg (fun p => BitVec.ofNat 32 p.length) train_reset

end Sys2Proof.Proofs
end

section
/-! The host's contract (R203-R211): the command sequence of a request, its REQ word, and its way to the sink. -/

namespace Sys2Proof.Proofs

open Sys2Proof.Machine Sys2Proof.Laws

/-! The command sequence of a request (R208, R209, R211). -/

/-- The snapshot taken at a merge does not change the effective state: it is taken only with power on, which does not read
it. -/
theorem effective_updateLkg (c : Climate) (l : Snapshot) : effective c (updateLkg c l) = effective c l := by
  cases hpower : c.powerOn with
  | true => rw [effective_of_on _ hpower, effective_of_on _ hpower]
  | false => rw [updateLkg_of_off _ hpower]

/-- Taking up a request puts its sequence ahead of the queue. -/
theorem takeControl_queue (r : ControlRequest) (s : State) :
    (takeControl r s).host.queue =
      controlSequence s.host.params (effective (merge r s.host.climate) s.host.lkg) ++ s.host.queue := by
  rw [← effective_updateLkg]
  rfl

theorem takeControl_log (r : ControlRequest) (s : State) :
    (takeControl r s).host.log = s.host.log ++ if s.host.params.sinkAttached then [] else [.noSink] :=
  reportSink_log (s.withRecords _ _)

/-- The effective state by the power of S, written out (R203, R205). -/
theorem effective_eq_ite (c : Climate) (l : Snapshot) :
    effective c l = if c.powerOn then c
      else ⟨false, l.mode, l.temperature, l.fan, l.swing, c.health, c.sleep, c.timerOn⟩ := by
  cases hpower : c.powerOn with
  | true => rw [effective_of_on _ hpower, if_pos rfl]
  | false => rw [effective_of_off _ hpower, if_neg Bool.false_ne_true]

/-- The word of LOAD_PRESET from its operands (R182). -/
theorem encode_loadPreset (hv : HeaderVariant) (fb : FrameBits) :
    encode (.loadPreset hv fb) = 4 + (if hv = .h9000 then 256 else 0) + (if fb = .bits105 then 512 else 0) := by
  cases hv <;> cases fb <;> rfl

/-- Settles O57: the step takes up the request, and its sequence is the accesses of the statement. -/
theorem requestIssuesItsCommandSequence : Obligations.RequestIssuesItsCommandSequence := by
  unfold Obligations.RequestIssuesItsCommandSequence
  intro s rest r c l e p preset transmit
  refine ⟨_, step_control s rest r, ?_, takeControl_log r _⟩
  have he : effective c l = e := effective_eq_ite c l
  have hpreset : encode (.loadPreset p.headerVariant p.frameBits) = preset := encode_loadPreset _ _
  rw [← he, ← hpreset]
  exact takeControl_queue r (s.withQueue rest)

/-! The REQ word of an effective state (R206, R207). -/

/-- Saturated to 16 bits, the number is the field's signed value (R207). -/
theorem tempOfCelsius_toInt (q : Rat) : (tempOfCelsius q).toInt = max (-32768) (min 32767 ⌊q * 256⌋) := by
  rw [tempOfCelsius, BitVec.toInt_ofInt_eq_self (by decide) (by omega) (by omega)]
  rfl

/-- R24's reserved bits of a composed REQ word. -/
theorem value_reserved (f : ReqFields) : f.value.getLsbD 14 = false ∧ f.value.getLsbD 15 = false := by
  constructor <;> rw [value_getLsbD _ _ (by decide)] <;> rfl

/-- Settles O58: the fields of the word are those of the request, and each mapping is the statement's case by case. -/
theorem requestFieldsReachTheirBits : Obligations.RequestFieldsReachTheirBits := by
  unfold Obligations.RequestFieldsReachTheirBits
  intro v e w
  have hw : reqFields w = requestFields v e := reqFields_value _
  have hmode : w.extractLsb' 1 3 = modeCode e.mode := congrArg ReqFields.mode hw
  have hfan : w.extractLsb' 4 2 = fanCode e.fan := congrArg ReqFields.fan hw
  have hswing : (w.extractLsb' 6 3, w.getLsbD 9) = resolveSwing v e.swing :=
    congrArg (fun f : ReqFields => (f.vane, f.lr)) hw
  have htemp : (w.getLsbD 13, w.extractLsb' 16 16) = tempCode e.temperature :=
    congrArg (fun f : ReqFields => (f.tvalid, f.temp)) hw
  obtain ⟨h14, h15⟩ := value_reserved (requestFields v e)
  refine ⟨congrArg ReqFields.power hw, congrArg ReqFields.health hw, congrArg ReqFields.sleep hw,
    congrArg ReqFields.timer hw, h14, h15, hmode.trans ?mode, hfan.trans ?fan, hswing.trans ?swing, ?temp⟩
  case mode => rcases e.mode with (_ | _ | _ | _ | _) | _ <;> rfl
  case fan => rcases e.fan with (_ | _ | _ | _) | _ <;> rfl
  case swing => rcases e.swing with (_ | _ | _ | _) | _ <;> cases v <;> rfl
  case temp =>
    rw [Prod.mk.injEq] at htemp
    obtain ⟨htvalid, hcode⟩ := htemp
    rw [htvalid, hcode]
    cases e.temperature with
    | celsius q => exact congrArg (Prod.mk true) (tempOfCelsius_toInt q)
    | undefined => rfl

/-! The temperature of a request (R102, R103, R207). -/

/-- In units of 1/256 the floor is 256 times the whole degrees and a rest that tells the half degree. -/
theorem floor_mul_256 (c : Rat) :
    ∃ k : Int, ⌊c * 256⌋ = 256 * ⌊c⌋ + k ∧ 0 ≤ k ∧ k < 256 ∧ (128 ≤ k ↔ 1 / 2 ≤ c - ⌊c⌋) := by
  have hnonneg : 0 ≤ c - ⌊c⌋ := sub_nonneg.mpr (Int.floor_le c)
  have hlt : c - ⌊c⌋ < 1 := by linarith [Int.lt_floor_add_one c]
  refine ⟨⌊(c - ⌊c⌋) * 256⌋, ?_, ?_, ?_, ?_⟩
  · rw [← Int.floor_intCast_add]
    congr 1
    push_cast
    ring
  · exact Int.floor_nonneg.mpr (by linarith)
  · exact Int.floor_lt.mpr (by push_cast; linarith)
  · rw [Int.le_floor]
    push_cast
    constructor <;> intro h <;> linarith

/-- The block's clamp of the converted value is the conversion of the clamped value (R102, R207). -/
theorem normaliseTemp_tempOfCelsius (q : Rat) :
    normaliseTemp true (tempOfCelsius q) = ⌊max 16 (min 30 q) * 256⌋ := by
  have hmono : Monotone fun x : Rat => ⌊x * 256⌋ := fun x y hxy => Int.floor_le_floor (by linarith)
  have hfloor : ⌊max 16 (min 30 q) * 256⌋ = max ⌊(16 : Rat) * 256⌋ (min ⌊(30 : Rat) * 256⌋ ⌊q * 256⌋) := by
    rw [← hmono.map_min, ← hmono.map_max]
  have h16 : ⌊(16 : Rat) * 256⌋ = 4096 := by norm_num
  have h30 : ⌊(30 : Rat) * 256⌋ = 7680 := by norm_num
  rw [normaliseTemp_eq_clamp, if_pos rfl, tempOfCelsius_toInt, hfloor, h16, h30]
  omega

/-- Settles O59: the block has the floor of 256 times the clamped temperature, whose quotient and rest by 256 are the split. -/
theorem conversionKeepsTheHalfDegreeSplit : Obligations.ConversionKeepsTheHalfDegreeSplit := by
  unfold Obligations.ConversionKeepsTheHalfDegreeSplit
  intro q t c
  have ht : t = ⌊c * 256⌋ := normaliseTemp_tempOfCelsius q
  obtain ⟨k, hk, hlo, hhi, hhalf⟩ := floor_mul_256 c
  constructor
  · rw [ht, hk, fullDeg]
    omega
  · rw [← hhalf, ht, hk, halfDeg_eq_decide, decide_eq_true_iff]
    omega

/-! One request to the sink, step by step. -/

/-- A run begins with its first step. -/
theorem coreRun_succ (M : Host.Core) {k : Nat} {s t : M.State} (h : M.step s = .next t) :
    M.run (k + 1) s = M.run k t := by
  rw [Host.Core.run, h]

theorem run_succ {k : Nat} {s t : State} (h : step s = .next t) : core.run (k + 1) s = core.run k t :=
  coreRun_succ core h

/-- A queued command runs in the block as it stands, and leaves the rest of the queue. -/
theorem step_cmd {s : State} {rest : List HostEvent} {i : Instr} (hq : s.host.queue = cmd i :: rest) :
    ∃ u, step s = exec i u ∧ u.block = s.block ∧ u.sink = s.sink ∧ u.host.queue = rest :=
  ⟨_, (step_eq_of_queue hq).trans (step_write_cmd_legal s rest (decode_encode i)), rfl, rfl, rfl⟩

/-- A queued REQ write stores the fields under the mask of REQ. -/
theorem step_req {s : State} {rest : List HostEvent} {f : ReqFields} (hq : s.host.queue = req f :: rest) :
    ∃ t, step s = .next t ∧ t.block = { s.block with req := f.value &&& reqMask } ∧ t.sink = s.sink ∧
      t.host.queue = rest :=
  ⟨_, (step_eq_of_queue hq).trans (step_write_register (r := .req) s rest f.value (by decide) rfl nofun), rfl, rfl, rfl⟩

theorem step_cmd_encode {s : State} {rest : List HostEvent} (hq : s.host.queue = cmd .encode :: rest) :
    ∃ t, step s = .next t ∧ t.block = s.block.withWord (encodeFrame s.block.req) ∧ t.sink = s.sink ∧
      t.host.queue = rest := by
  obtain ⟨u, hstep, hb, hk, hrest⟩ := step_cmd hq
  exact ⟨_, hstep.trans (exec_encode u), by rw [withBlock_block, hb], hk, hrest⟩

theorem step_cmd_loadPreset {s : State} {rest : List HostEvent} {hv : HeaderVariant} {fb : FrameBits}
    (hq : s.host.queue = cmd (.loadPreset hv fb) :: rest) :
    ∃ t, step s = .next t ∧
      t.block = s.block.withTiming presetKhz (presetHdr hv) presetOne presetZero (presetSercfg fb) ∧
      t.sink = s.sink ∧ t.host.queue = rest := by
  obtain ⟨u, hstep, hb, hk, hrest⟩ := step_cmd hq
  exact ⟨_, hstep.trans (exec_loadPreset hv fb u), by rw [withBlock_block, hb], hk, hrest⟩

theorem step_cmd_serialize {s : State} {rest : List HostEvent} (hq : s.host.queue = cmd .serialize :: rest) :
    ∃ t, step s = .next t ∧
      t.block = s.block.withTrain (padTrain (train s.block)) (BitVec.ofNat 32 (train s.block).length)
        (carrierInHz s.block.carrierKhz) ∧
      t.sink = s.sink ∧ t.host.queue = rest := by
  obtain ⟨u, hstep, hb, hk, hrest⟩ := step_cmd hq
  exact ⟨_, hstep.trans (exec_serialize u), by rw [withBlock_block, hb], hk, hrest⟩

theorem step_cmd_transmit {s : State} {rest : List HostEvent} (hq : s.host.queue = cmd .transmit :: rest) :
    ∃ t, step s = .next t ∧ t.block = s.block ∧ t.sink = s.sink ++ [transaction s.block] ∧ t.host.queue = rest := by
  obtain ⟨u, hstep, hb, hk, hrest⟩ := step_cmd hq
  exact ⟨_, hstep.trans (exec_transmit u), hb, by rw [emit_sink, hb, hk], hrest⟩

/-- With a sink and no re-transmission a request is five accesses. -/
theorem controlSequence_of_sink {p : HostParams} (e : Climate) (hsink : p.sinkAttached = true)
    (hretx : p.retransmit = none) :
    controlSequence p e = [req (requestFields p.vsweepCode e), cmd .encode,
      cmd (.loadPreset p.headerVariant p.frameBits), cmd .serialize, cmd .transmit] := by
  simp only [controlSequence, transmission, hsink, hretx, if_true, retransmission, List.cons_append, List.nil_append]

/-- Those five accesses run one by one to one transaction. -/
theorem run_commands {s : State} {f : ReqFields} {hv : HeaderVariant} {fb : FrameBits}
    (hq : s.host.queue = [req f, cmd .encode, cmd (.loadPreset hv fb), cmd .serialize, cmd .transmit]) :
    let b := ({ s.block with req := f.value &&& reqMask }.withWord (encodeFrame (f.value &&& reqMask))).withTiming
      presetKhz (presetHdr hv) presetOne presetZero (presetSercfg fb)
    ∃ t, core.run 5 s = .next t ∧ t.sink = s.sink ++ [⟨carrierInHz presetKhz, train b⟩] ∧
      t.block.req = b.req ∧ t.block.word = b.word ∧ t.block.status = s.block.status ∧ t.host.queue = [] := by
  intro b
  obtain ⟨s1, h1, hb1, hk1, hq1⟩ := step_req hq
  obtain ⟨s2, h2, hb2, hk2, hq2⟩ := step_cmd_encode hq1
  obtain ⟨s3, h3, hb3, hk3, hq3⟩ := step_cmd_loadPreset hq2
  obtain ⟨s4, h4, hb4, hk4, hq4⟩ := step_cmd_serialize hq3
  obtain ⟨s5, h5, hb5, hk5, hq5⟩ := step_cmd_transmit hq4
  have hb : s3.block = b := by rw [hb3, hb2, hb1]
  rw [hb] at hb4
  have hsent : transaction s4.block = ⟨carrierInHz presetKhz, train b⟩ :=
    transaction_of_serialized (c := b) (by rw [hb4, withTrain_pulse]) (by rw [hb4, withTrain_pulseLen])
      (by rw [hb4, withTrain_carrierHz])
  refine ⟨s5, ?_, ?_, ?_, ?_, ?_, hq5⟩
  · rw [run_succ h1, run_succ h2, run_succ h3, run_succ h4, run_succ h5]
    rfl
  · rw [hk5, hk4, hk3, hk2, hk1, hsent]
  · rw [hb5, hb4, withTrain_req]
  · rw [hb5, hb4, withTrain_word]
  · exact (congrArg Block.status (hb5.trans hb4)).trans rfl

/-! The train of a preset (R181). -/

theorem presetTimings_nonzero (hv : HeaderVariant) :
    TimingNonzero (presetHdr hv) ∧ TimingNonzero presetOne ∧ TimingNonzero presetZero := by
  cases hv <;> decide

theorem pairOf_presetHdr (hv : HeaderVariant) :
    pairOf (presetHdr hv) = match hv with | .h8950 => [8950, 4450] | .h9000 => [9000, 4500] := by
  cases hv <;> rfl

theorem pairOf_presetBit (bit : Bool) :
    pairOf (if bit then presetOne else presetZero) = if bit then [550, 1650] else [550, 550] := by
  cases bit <;> rfl

theorem cappedCount_presetSercfg (fb : FrameBits) :
    cappedCount (presetSercfg fb) = match fb with | .bits104 => 104 | .bits105 => 105 := by
  cases fb <;> decide

theorem msbField_presetSercfg (fb : FrameBits) : msbField (presetSercfg fb) = false := by
  cases fb <;> exact msbField_sercfgWord _ _

/-- Under a preset no timing is 0: the train is the header and a pair for each bit, least significant first. -/
theorem train_preset (b : Block) (hv : HeaderVariant) (fb : FrameBits) :
    train (b.withTiming presetKhz (presetHdr hv) presetOne presetZero (presetSercfg fb)) =
      pairOf (presetHdr hv) ++ (List.range (cappedCount (presetSercfg fb))).flatMap fun i =>
        if dataBit false b.word i then [550, 1650] else [550, 550] := by
  obtain ⟨hhdr, hone, hzero⟩ := presetTimings_nonzero hv
  rw [train_eq_rawTrain]
  · simp only [rawTrain, withTiming_hdr, withTiming_one, withTiming_zero, withTiming_sercfg, withTiming_word,
      msbField_presetSercfg, pairOf_presetBit]
  · rw [zero_notMem_rawTrain_iff, forall_ite_iff]
    exact ⟨hhdr, fun _ => hone, fun _ => hzero⟩

/-- Settles O60: the first step takes up the request, and its five accesses run to one transaction with the train of the
preset and the frame of the effective state. -/
theorem requestReachesTheSink : Obligations.RequestReachesTheSink := by
  unfold Obligations.RequestReachesTheSink
  intro s r hsink hretx c p value w header n pair
  have hq : (takeControl r (s.withQueue [])).host.queue =
      [req (requestFields p.vsweepCode (effective c s.host.lkg)), cmd .encode,
        cmd (.loadPreset p.headerVariant p.frameBits), cmd .serialize, cmd .transmit] := by
    rw [takeControl_queue, withQueue_host_queue, List.append_nil]
    exact controlSequence_of_sink _ hsink hretx
  obtain ⟨t, hrun, ht, hreq, hword, hstatus, hempty⟩ := run_commands hq
  have hcarrier : carrierInHz presetKhz = 38000 := by decide
  have hheader : pairOf (presetHdr p.headerVariant) = header := pairOf_presetHdr _
  have hn : cappedCount (presetSercfg p.frameBits) = n := cappedCount_presetSercfg _
  have hpair (i : Nat) : (if dataBit false w i then [550, 1650] else [550, 550] : List Duration) = pair i := by
    rw [dataBit_eq_getLsbD]
    rfl
  refine ⟨t, (run_succ (step_control s [] r)).trans hrun, ?_, hreq, hword, hstatus.trans ?_, hempty⟩
  · rw [ht, takeControl_sink, hcarrier, train_preset, hheader, hn, withQueue_sink]
    exact congrArg (fun g => s.sink ++ [⟨38000, header ++ (List.range n).flatMap g⟩]) (funext hpair)
  · exact congrArg Block.status (takeControl_block r _)

end Sys2Proof.Proofs
end
